-- ==== Sys2Proof/Word.lean ====
section
/-! DEFINITION. The two word types of the block: a codeword or operand byte, and a command word.
All values are unsigned (R8). -/

namespace Sys2Proof

/-- A byte: a codeword, a field element, an operand or an 8-bit register (R8). -/
abbrev Byte := BitVec 8

/-- A command word, 32 bits, with no byte order (R44, R60). -/
abbrev Word := BitVec 32

end Sys2Proof
end

