-- ==== Sys2Proof/Syntax.lean ====
section
/-! DEFINITION. The seven commands (one constructor per row of the opcode table, R62), and the
assembler's source lines (R67, R68). -/

namespace Sys2Proof

/-- A command. The operands are the bytes `A` and `B` of the word, exactly as they stand (R61). -/
inductive Instr where
  | gfmul (a b : Byte)     -- R86
  | genpoly (n : Byte)     -- R101
  | clear                  -- R121
  | feed (d : Byte)        -- R122
  | readrem (i : Byte)     -- R124
  | readgen (i : Byte)     -- R103
  | readstat (sel : Byte)  -- R140
  deriving DecidableEq, Repr

/-- The names that may begin a source line: the seven commands (R67) and the five
pseudo-instructions (R68). -/
inductive Mnemonic where
  | gfmul | genpoly | clear | feed | readrem | readgen | readstat
  | rdstatus | rddeg | rdnmax | rsblock | rssymbol
  deriving DecidableEq, Repr

/-- One line of assembler source after reading: a mnemonic and its operands, numbers of any size,
since it is the assembler that refuses one outside 0 to 255 (R67). -/
structure SourceLine where
  mnemonic : Mnemonic
  operands : List Nat
  deriving DecidableEq, Repr

/-- The source line of a command (R67). -/
def Instr.source : Instr → SourceLine
  | .gfmul a b    => ⟨.gfmul, [a.toNat, b.toNat]⟩
  | .genpoly n    => ⟨.genpoly, [n.toNat]⟩
  | .clear        => ⟨.clear, []⟩
  | .feed d       => ⟨.feed, [d.toNat]⟩
  | .readrem i    => ⟨.readrem, [i.toNat]⟩
  | .readgen i    => ⟨.readgen, [i.toNat]⟩
  | .readstat sel => ⟨.readstat, [sel.toNat]⟩

end Sys2Proof
end

