-- ==== Sys2Proof/WellFormed.lean ====
section
/-! DEFINITION. The checks the assembler makes on a source line: the operand count and the operand
range (R67). An operand that is only out of range at run time is well formed. -/

namespace Sys2Proof

/-- How many operands a mnemonic takes; `none` is any number, the data bytes of RSBLOCK (R67, R68). -/
def Mnemonic.arity : Mnemonic → Option Nat
  | .gfmul => some 2
  | .genpoly | .feed | .readrem | .readgen | .readstat | .rssymbol => some 1
  | .clear | .rdstatus | .rddeg | .rdnmax => some 0
  | .rsblock => none

/-- The operand count is the mnemonic's (R67). -/
def SourceLine.countOk (l : SourceLine) : Bool :=
  match l.mnemonic.arity with
  | some n => l.operands.length == n
  | none => true

/-- Every operand is from 0 to 255 (R67). -/
def SourceLine.rangeOk (l : SourceLine) : Bool := l.operands.all (· ≤ 255)

/-- The assembler takes the line (R67). -/
def SourceLine.wellFormed (l : SourceLine) : Bool := l.countOk && l.rangeOk

/-- A command is well formed when its source line is. Every `Instr` is, because its operands are bytes
(`Sys2Proof.Laws.WellFormed`). -/
def Instr.wellFormed (i : Instr) : Bool := i.source.wellFormed

end Sys2Proof
end

