-- ==== Sys2Proof/Decode.lean ====
section
/-! DEFINITION. The decoder, total on every 32-bit word (R65), the encoder written from the same field
layout (R60), and the opcode map as data (R62). -/

namespace Sys2Proof

/-- `OPC = w[31:24]` (R60). -/
def Word.opc (w : Word) : Byte := w.extractLsb' 24 8
/-- `RSV = w[23:16]` (R60). -/
def Word.rsv (w : Word) : Byte := w.extractLsb' 16 8
/-- `A = w[15:8]` (R60). -/
def Word.opA (w : Word) : Byte := w.extractLsb' 8 8
/-- `B = w[7:0]` (R60). -/
def Word.opB (w : Word) : Byte := w.extractLsb' 0 8

/-- Why a word is illegal (R63, R64). All four lead to the one cause ILLEGAL_CMD (R151). -/
inductive Illegal where
  | reservedField  -- RSV is not 0 (R63)
  | opcode         -- OPC is 0x00 or 0x08 to 0xFF (R64)
  | operandA       -- A is not 0 in a command other than GFMUL (R63)
  | operandB       -- B is not 0 in CLEAR (R63)
  deriving DecidableEq, Repr

/-- What a word decodes to: a command, or an illegal word with its reason. -/
inductive Decoded where
  | instr (i : Instr)
  | illegal (why : Illegal)
  deriving DecidableEq, Repr

/-- A command that needs `A = 0` (R65). -/
def whenAZero (w : Word) (i : Instr) : Decoded :=
  if w.opA = 0#8 then .instr i else .illegal .operandA

/-- `decode` of R65. -/
def decode (w : Word) : Decoded :=
  if w.rsv ≠ 0#8 then .illegal .reservedField
  else if w.opc = 0x01#8 then .instr (.gfmul w.opA w.opB)
  else if w.opc = 0x02#8 then whenAZero w (.genpoly w.opB)
  else if w.opc = 0x03#8 then
    if w.opB = 0#8 then whenAZero w .clear
    else if w.opA = 0#8 then .illegal .operandB else .illegal .operandA
  else if w.opc = 0x04#8 then whenAZero w (.feed w.opB)
  else if w.opc = 0x05#8 then whenAZero w (.readrem w.opB)
  else if w.opc = 0x06#8 then whenAZero w (.readgen w.opB)
  else if w.opc = 0x07#8 then whenAZero w (.readstat w.opB)
  else .illegal .opcode

/-- The command of a word, `none` for an illegal word. -/
def Decoded.instr? : Decoded → Option Instr
  | .instr i => some i
  | .illegal _ => none

/-- The layout of R60 with `RSV = 0`: `OPC`, `RSV`, `A`, `B` from the top byte down. -/
def packWord (opc a b : Byte) : Word := opc ++ 0#8 ++ a ++ b

/-- The word of a command (R60, R62). -/
def encode : Instr → Word
  | .gfmul a b    => packWord 0x01#8 a b
  | .genpoly n    => packWord 0x02#8 0#8 n
  | .clear        => packWord 0x03#8 0#8 0#8
  | .feed d       => packWord 0x04#8 0#8 d
  | .readrem i    => packWord 0x05#8 0#8 i
  | .readgen i    => packWord 0x06#8 0#8 i
  | .readstat sel => packWord 0x07#8 0#8 sel

/-- One row of the opcode map (R62). -/
structure OpcodeRow where
  mnemonic  : Mnemonic
  matchBits : Word
  mask      : Word
  deriving DecidableEq, Repr

/-- A word is in a row when `(w AND mask) = match` (R62). -/
def OpcodeRow.holds (row : OpcodeRow) (w : Word) : Bool := w &&& row.mask == row.matchBits

/-- The opcode map of R62, row by row. -/
def opcodeMap : List OpcodeRow :=
  [ ⟨.gfmul,    0x01000000#32, 0xFFFF0000#32⟩,
    ⟨.genpoly,  0x02000000#32, 0xFFFFFF00#32⟩,
    ⟨.clear,    0x03000000#32, 0xFFFFFFFF#32⟩,
    ⟨.feed,     0x04000000#32, 0xFFFFFF00#32⟩,
    ⟨.readrem,  0x05000000#32, 0xFFFFFF00#32⟩,
    ⟨.readgen,  0x06000000#32, 0xFFFFFF00#32⟩,
    ⟨.readstat, 0x07000000#32, 0xFFFFFF00#32⟩ ]

/-- The command word whose `nbits` low bits are `w` and whose other bits are 0. -/
def tableWord (nbits w : Nat) : Word := BitVec.ofNat 32 (w % 2 ^ nbits)

/-- The instruction the decoder reads from that word, bit 0 the least significant (R8, R60). -/
def decodeTableWord (nbits w : Nat) : Option Instr := (decode (tableWord nbits w)).instr?

end Sys2Proof
end

