-- ==== Sys2Proof/Config.lean ====
section
/-! DEFINITION. What the implementation fixes: NMAX, the field constants, and the shape of the
latency parameters. Nothing of the block is a free value: the spec leaves no result undefined. -/

namespace Sys2Proof

/-- `NMAX` of this hardware (R5). State carries it, so that a statement holds for every legal value
(log entry 1). -/
def Config.nmax : Byte := 30#8

/-- The legal values of `NMAX` are 1 to 255 (R5). -/
def Config.legalNmax (nmax : Byte) : Bool := 1 ≤ nmax.toNat

/-- `PRIM_POLY = 0x11D`, nine bits wide (R7 a). -/
def Config.primPoly : BitVec 9 := 0x11D#9

/-- The primitive element `ALPHA`, the class of x (R7 b). -/
def Config.alpha : Byte := 0x02#8

/-- `ALPHA^B0` with the first root exponent `B0 = 0` (R7 c): the first root of the generator. -/
def Config.firstRoot : Byte := 0x01#8

/-- The latencies in clock edges (R6), an argument of the clock-edge machine. `illegal` is the latency
of an illegal word accepted while FAULT = 0, which R6 does not name (DESIGN CHOICE, log entry 5). -/
structure Latencies where
  gfmul   : Nat
  genpoly : Byte → Nat
  clear   : Nat
  feed    : Byte → Nat
  read    : Nat
  ignored : Nat
  illegal : Nat

/-- Each latency is an integer of at least 1 (R6). -/
def Latencies.legal (lat : Latencies) : Prop :=
  1 ≤ lat.gfmul ∧ (∀ n, 1 ≤ lat.genpoly n) ∧ 1 ≤ lat.clear ∧ (∀ n, 1 ≤ lat.feed n) ∧
    1 ≤ lat.read ∧ 1 ≤ lat.ignored ∧ 1 ≤ lat.illegal

end Sys2Proof
end

