-- ==== Sys2Proof/Machine/Gf256.lean ====
section
/-! DEFINITION. Arithmetic in GF(256): the carry-less product (R81), the field product (R82), its
bit-serial form (R83), powers (R85), and polynomials over the field (R42, R100, R123). -/

namespace Sys2Proof

/-- Field addition and subtraction: exclusive-or (R80). -/
def gfAdd (a b : Byte) : Byte := a ^^^ b

/-- The carry-less product `clmul(a, b)`, 15 bits (R81). -/
def clmul (a b : Byte) : BitVec 15 :=
  [0, 1, 2, 3, 4, 5, 6, 7].foldl
    (fun z i => if b.getLsbD i then z ^^^ (a.setWidth 15 <<< i) else z) 0#15

/-- The reduction loop of R82: clear bits 14 down to 8 by adding shifts of `PRIM_POLY`. -/
def reducePrim (z : BitVec 15) : BitVec 15 :=
  [14, 13, 12, 11, 10, 9, 8].foldl
    (fun z i => if z.getLsbD i then z ^^^ (Config.primPoly.setWidth 15 <<< (i - 8)) else z) z

/-- The field product `gf_mul(a, b)` (R82). -/
def gfMul (a b : Byte) : Byte := (reducePrim (clmul a b)).setWidth 8

/-- Multiplication by x with reduction, the step of R83. -/
def gfDouble (z : Byte) : Byte := (z <<< 1) ^^^ (if z.getLsbD 7 then 0x1D#8 else 0x00#8)

/-- The bit-serial product, most significant multiplier bit first (R83). -/
def gfMulSerial (a b : Byte) : Byte :=
  [7, 6, 5, 4, 3, 2, 1, 0].foldl
    (fun z i => if b.getLsbD i then gfDouble z ^^^ a else gfDouble z) 0#8

/-- `ALPHA^i` (R85). -/
def alphaPow : Nat → Byte
  | 0 => 0x01#8
  | i + 1 => gfMul (alphaPow i) Config.alpha

/-- A polynomial over the field: the coefficient of x^k at position k. The register files and a block's
bytes stand highest degree first (R21, R22, R42), so they are read through `ofHighFirst`. -/
abbrev Poly := List Byte

/-- The polynomial whose coefficients are listed highest degree first (R42). -/
def Poly.ofHighFirst (cs : List Byte) : Poly := cs.reverse

/-- The sum of two polynomials, coefficient by coefficient. -/
def Poly.add : Poly → Poly → Poly
  | [], q => q
  | p, [] => p
  | a :: p, b :: q => gfAdd a b :: Poly.add p q

/-- The product of two polynomials: `(a + x·p)·q = a·q + x·(p·q)`. -/
def Poly.mul : Poly → Poly → Poly
  | [], _ => []
  | a :: p, q => Poly.add (q.map (gfMul a)) (0#8 :: Poly.mul p q)

/-- The value of a polynomial at a field element, by Horner's rule. -/
def Poly.eval (x : Byte) : Poly → Byte
  | [] => 0#8
  | a :: p => gfAdd a (gfMul x (Poly.eval x p))

/-- `p·x^n`. -/
def Poly.shift (n : Nat) (p : Poly) : Poly := List.replicate n 0#8 ++ p

/-- The generator polynomial by its definition, `(x + ALPHA^0)···(x + ALPHA^(n-1))` (R100). -/
def generatorPoly : Nat → Poly
  | 0 => [0x01#8]
  | n + 1 => Poly.mul [alphaPow n, 0x01#8] (generatorPoly n)

end Sys2Proof
end

