-- ==== Sys2Proof/Machine/State.lean ====
section
/-! DEFINITION. The state of one block (R20), the host's pending actions, and the state right after a
reset edge (R35, R180). -/

namespace Sys2Proof.Machine

open Sys2Proof

/-- The reasons this machine stops with a fault: NONE. The step is total (R10), no behaviour of the
block is stuck (93_implementation_defined.md, part A), and the faults of R150 are recorded in `FAULT` and
`CAUSE` by a next state. No constructor, so no definition can raise one. -/
inductive Fault where
  deriving DecidableEq, Repr

/-- The reasons the model refuses an instruction. -/
inductive Refusal where
  /-- The instruction has no meaning in `exec` yet. Only an arm of `exec` raises it, and no arm does:
  every row of the opcode table has its meaning. Safe: a refusal proves nothing about a next state. -/
  | notModelled (mnemonic : String)
  deriving DecidableEq, Repr

/-- The fault causes a command can raise (R150). -/
inductive Cause where
  | illegalCmd   -- the word matches no row of the opcode map (R151)
  | noGenerator  -- DEG = 0 (R152)
  | badDegree    -- GENPOLY's operand is 0 or above NMAX (R153)
  | badIndex     -- an index at DEG or above, or a selector above 2 (R154)
  deriving DecidableEq, Repr

/-- The phase of the command handshake (R32, R38). -/
inductive Phase where
  /-- No command is in flight. -/
  | idle
  /-- A command has been accepted: its word, and how many edges remain until it completes. -/
  | busy (word : Word) (edgesLeft : Nat)
  deriving DecidableEq, Repr

/-- What the host does next, seen by the command step (R10, R180; log entry 2). -/
inductive HostAction where
  | issue (w : Word)  -- offer a command word and hold it until it is accepted (R193)
  | reset             -- drive `rst_n` low for an edge (R180)
  deriving DecidableEq, Repr

/-- The state of one block. -/
structure State where
  /-- `NMAX`: hardwired configuration that no command writes (R5, R28; log entry 1). -/
  nmax   : Byte
  /-- `DEG`, the degree of the generator held in `G`; 0 when there is none (R23). -/
  deg    : Byte
  /-- The generator register file `G[0..NMAX-1]` (R21). -/
  g      : List Byte
  /-- The remainder register file `R[0..NMAX-1]`, the shift register (R22). -/
  r      : List Byte
  /-- `RESULT` (R24). -/
  result : Byte
  /-- `FAULT`, sticky (R25). -/
  fault  : Bool
  /-- `CAUSE`, the cause code of the first fault since reset (R26). -/
  cause  : BitVec 3
  /-- The handshake phase (R32). -/
  phase  : Phase
  /-- `rst_n` as sampled at the last edge; `cmd_ready` needs it (R36). -/
  rstN   : Bool
  /-- The `done` output: a command completed at the last edge (R36). -/
  done   : Bool
  /-- The host's pending actions, oldest first (log entry 2). -/
  host   : List HostAction
  deriving DecidableEq, Repr

/-- Every register at its reset value, for a block with the given `NMAX`, right after an edge with
`rst_n = 0` (R35, R180; log entry 3). -/
def State.resetWith (nmax : Byte) : State where
  nmax   := nmax
  deg    := 0#8
  g      := List.replicate nmax.toNat 0#8
  r      := List.replicate nmax.toNat 0#8
  result := 0#8
  fault  := false
  cause  := 0#3
  phase  := .idle
  rstN   := false
  done   := false
  host   := []

/-- This hardware after reset, `NMAX = 30` (R5, R35). The host has offered nothing (log entry 2). -/
def State.reset : State := State.resetWith Config.nmax

end Sys2Proof.Machine
end

