-- ==== Sys2Proof/Machine/Ops.lean ====
section
/-! DEFINITION. The named operations over the registers: reading a cell, clearing a register file, the
shift primitive (R120), building the generator (R101), writing RESULT, entering the fault state (R160) and
leaving it by reset (R165, R180). -/

namespace Sys2Proof.Machine

open Sys2Proof

/-- What a command ends in. -/
abbrev Result := Host.Outcome State Fault Refusal

/-- Cell `j` of a register file. Past the file's last cell it reads 0; no command reads there while the
file has `NMAX` cells (R41; log entry 4). -/
def cell (file : List Byte) (j : Nat) : Byte := file.getD j 0#8

/-- `n` cells of 0x00. -/
def zeroCells (n : Nat) : List Byte := List.replicate n 0#8

/-- `shift_in(n)`: shift the first `n` cells left, drop the first, set the last to 0x00 (R120). -/
def shiftIn (n : Nat) (r : List Byte) : List Byte := (r.take n).drop 1 ++ 0#8 :: r.drop n

/-- `R[j] <- R[j] XOR gf_mul(G[j], factor)` for `j` in `0..n-1`, the last loop of FEED (R122). -/
def addScaled (n : Nat) (factor : Byte) (g r : List Byte) : List Byte :=
  List.zipWith (fun rj gj => rj ^^^ gfMul gj factor) (r.take n) (g.take n) ++ r.drop n

/-- One division step of FEED on the register file `R` (R122); `factor` uses the old `R[0]`. -/
def feedCells (n : Nat) (d : Byte) (g r : List Byte) : List Byte :=
  addScaled n (d ^^^ cell r 0) g (shiftIn n r)

/-- The inner loop of GENPOLY, ascending `j`, each cell using the old `T[j+1]` (R101). -/
def mulByRoot (root : Byte) : List Byte → List Byte
  | [] => []
  | [t] => [gfMul t root]
  | t :: u :: rest => (gfMul t root ^^^ u) :: mulByRoot root (u :: rest)

/-- The outer loop of GENPOLY: `k` factors, the next of them with the given root (R101). -/
def mulByRoots : Nat → Byte → List Byte → List Byte
  | 0, _, t => t
  | k + 1, root, t => mulByRoots k (gfMul root Config.alpha) (mulByRoot root t)

/-- The array `T` after GENPOLY's loops for `n ≥ 1`: the `n` lower coefficients of the generator, highest
degree first (R101, R102). -/
def generatorCells (n : Nat) : List Byte :=
  mulByRoots n Config.firstRoot (zeroCells (n - 1) ++ [0x01#8])

/-- The cause codes held in `CAUSE` (R150). -/
def Cause.code : Cause → BitVec 3
  | .illegalCmd => 1#3
  | .noGenerator => 2#3
  | .badDegree => 3#3
  | .badIndex => 4#3

/-- `RESULT <- v` (R24). -/
def setResult (v : Byte) (s : State) : State := { s with result := v }

/-- Fault entry: `FAULT <- 1`, `CAUSE <- c`, and no other state changes (R160). -/
def takeFault (c : Cause) (s : State) : State := { s with fault := true, cause := c.code }

/-- `raise Fault(c)` in a command accepted while FAULT = 0 (R9, R160). -/
def raise (c : Cause) (s : State) : Result := .next (takeFault c s)

/-- `if FAULT == 1: ignore`: an ignored command changes no state at all (R9, R162). -/
def unlessFaulted (s : State) (command : Result) : Result :=
  if s.fault then .next s else command

/-- The effect of an edge with `rst_n = 0`, the only return from the fault state (R165, R180): every
register at its reset value. The hardwired NMAX and the host's later actions stay. -/
def resetEdge (s : State) : State := { State.resetWith s.nmax with host := s.host }

end Sys2Proof.Machine
end

