-- ==== Sys2Proof/Machine/Operands.lean ====
section
/-! DEFINITION. The checks of operands against DEG and NMAX, unsigned (R61), in the order of R158. The
operands themselves are the bytes `A` and `B` of the word, read by the decoder. -/

namespace Sys2Proof.Machine

open Sys2Proof

/-- GENPOLY's operand is legal: `1 <= n <= NMAX` (R101, R153). -/
def degreeLegal (n : Byte) (s : State) : Bool := n ≠ 0#8 ∧ n.toNat ≤ s.nmax.toNat

/-- READREM's and READGEN's operand is legal: `i < DEG` (R41, R154). -/
def indexLegal (i : Byte) (s : State) : Bool := i.toNat < s.deg.toNat

/-- READSTAT's operand is legal: `s <= 2` (R41, R140). -/
def selectorLegal (sel : Byte) : Bool := sel.toNat ≤ 2

/-- NO_GENERATOR while DEG = 0, before any other operand check (R152, R158). -/
def needGenerator (s : State) (command : Result) : Result :=
  if s.deg = 0#8 then raise .noGenerator s else command

/-- NO_GENERATOR, then BAD_INDEX, then the read of one cell into RESULT (R103, R124). -/
def readCell (file : List Byte) (i : Byte) (s : State) : Result :=
  needGenerator s <|
    if indexLegal i s then .next (setResult (cell file i.toNat) s) else raise .badIndex s

end Sys2Proof.Machine
end

