-- ==== Sys2Proof/Machine/Flags.lean ====
section
/-! DEFINITION. The status bits. The block has no arithmetic flag (R29); its status bits are FAULT,
GENVALID and CAUSE, seen in the read-only view STATUS (R27). -/

namespace Sys2Proof.Machine

open Sys2Proof

/-- `GENVALID`: 1 if and only if `DEG != 0` (R27). -/
def genValid (s : State) : Bool := s.deg ≠ 0#8

/-- `STATUS = {FAULT, (DEG != 0), CAUSE[2:0], 0b000}` (R27). -/
def status (s : State) : Byte :=
  BitVec.ofBool s.fault ++ BitVec.ofBool (genValid s) ++ s.cause ++ 0#3

/-- What a legal selector of READSTAT reads: 0 STATUS, 1 DEG, 2 NMAX (R140). -/
def statusValue (sel : Byte) (s : State) : Byte :=
  if sel = 0#8 then status s else if sel = 1#8 then s.deg else s.nmax

end Sys2Proof.Machine
end

