-- ==== Sys2Proof/Machine/FieldMul.lean ====
section
/-! DEFINITION. GFMUL (40_gf256.md). -/

namespace Sys2Proof.Machine

open Sys2Proof

/-- GFMUL a, b: `RESULT <- gf_mul(A, B)`; no operand faults and no generator is needed (R86). -/
def execGfmul (a b : Byte) (s : State) : Result :=
  unlessFaulted s <| .next (setResult (gfMul a b) s)

end Sys2Proof.Machine
end

