-- ==== Sys2Proof/Machine/Generator.lean ====
section
/-! DEFINITION. GENPOLY and READGEN (41_rs_generator.md). -/

namespace Sys2Proof.Machine

open Sys2Proof

/-- The state after a GENPOLY that does not fault: `G` holds the generator above zeros, `R` is clear and
`DEG` is n (R101). -/
def buildGenerator (n : Byte) (s : State) : State :=
  { s with
    g := generatorCells n.toNat ++ zeroCells (s.nmax.toNat - n.toNat)
    r := zeroCells s.nmax.toNat
    deg := n }

/-- GENPOLY n (R101): BAD_DEGREE unless `1 <= n <= NMAX`. -/
def execGenpoly (n : Byte) (s : State) : Result :=
  unlessFaulted s <| if degreeLegal n s then .next (buildGenerator n s) else raise .badDegree s

/-- READGEN i: `RESULT <- G[i]` (R103). -/
def execReadgen (i : Byte) (s : State) : Result := unlessFaulted s <| readCell s.g i s

end Sys2Proof.Machine
end

