-- ==== Sys2Proof/Machine/Remainder.lean ====
section
/-! DEFINITION. CLEAR, FEED and READREM (42_rs_remainder.md). -/

namespace Sys2Proof.Machine

open Sys2Proof

/-- CLEAR: `R[j] <- 0x00` for every j; legal while DEG = 0 (R121). -/
def execClear (s : State) : Result :=
  unlessFaulted s <| .next { s with r := zeroCells s.nmax.toNat }

/-- FEED d: one step of the remainder division (R122); NO_GENERATOR while DEG = 0. -/
def execFeed (d : Byte) (s : State) : Result :=
  unlessFaulted s <| needGenerator s <| .next { s with r := feedCells s.deg.toNat d s.g s.r }

/-- READREM i: `RESULT <- R[i]`; it does not shift the register (R124). -/
def execReadrem (i : Byte) (s : State) : Result := unlessFaulted s <| readCell s.r i s

end Sys2Proof.Machine
end

