-- ==== Sys2Proof/Machine/Status.lean ====
section
/-! DEFINITION. READSTAT (43_status.md). -/

namespace Sys2Proof.Machine

open Sys2Proof

/-- READSTAT s (R140): with a legal selector it runs in the fault state too; with another it is ignored
there, and raises BAD_INDEX otherwise. -/
def execReadstat (sel : Byte) (s : State) : Result :=
  if selectorLegal sel then .next (setResult (statusValue sel s) s)
  else unlessFaulted s <| raise .badIndex s

end Sys2Proof.Machine
end

