-- ==== Sys2Proof/Machine/Dispatch.lean ====
section
/-! DEFINITION. The effect of one decoded command, one arm per constructor of Instr. -/

namespace Sys2Proof.Machine

open Sys2Proof

def exec (i : Instr) (s : State) : Host.Outcome State Fault Refusal :=
  match i with
  | .gfmul a b => Sys2Proof.Machine.execGfmul a b s
  | .genpoly n => Sys2Proof.Machine.execGenpoly n s
  | .clear => Sys2Proof.Machine.execClear s
  | .feed d => Sys2Proof.Machine.execFeed d s
  | .readrem j => Sys2Proof.Machine.execReadrem j s
  | .readgen j => Sys2Proof.Machine.execReadgen j s
  | .readstat sel => Sys2Proof.Machine.execReadstat sel s

end Sys2Proof.Machine
end

