-- ==== Sys2Proof/Machine/Handshake.lean ====
section
/-! DEFINITION. One accepted command word as one atomic step (R10, R190), and the clock-edge machine that
carries the same commands through the valid/ready handshake (R36, R38, R180, R181, R190, R193). -/

namespace Sys2Proof.Machine

open Sys2Proof

/-- The effect of one accepted word, the step of R10: the decoded command, or for an illegal word the
fault ILLEGAL_CMD, unless the block is in the fault state, where it is ignored (R65, R151, R162). -/
def perform (w : Word) (s : State) : Result :=
  match decode w with
  | .instr i => exec i s
  | .illegal _ => unlessFaulted s <| raise .illegalCmd s

/-- The handshake after a completing edge: phase IDLE, `done` 1, `rst_n` sampled 1 (R38). -/
def completed (s : State) : State := { s with phase := .idle, done := true, rstN := true }

/-- Complete an in-flight word: all its state changes at once, together with the handshake's (R38, R190).
A faulting or ignored command completes with `done` too (R160, R162). -/
def finish (w : Word) (s : State) : Result :=
  match perform w s with
  | .next t => .next (completed t)
  | .fault f => .fault f
  | .refused r => .refused r

/-- An edge with `rst_n = 1` at which nothing is accepted and nothing completes: no register changes and
`done` is 0 (R36, R169). -/
def quietEdge (s : State) : State := { s with done := false, rstN := true }

/-- The input pins as sampled at one rising edge of `clk` (R36). -/
structure Pins where
  rstN     : Bool
  cmdValid : Bool
  cmdWord  : Word
  deriving DecidableEq, Repr

/-- The output pins (R36). -/
structure Outputs where
  cmdReady : Bool
  done     : Bool
  result   : Byte
  fault    : Bool
  deriving DecidableEq, Repr

/-- `cmd_ready` is 1 if and only if the phase is IDLE and `rst_n = 1` was sampled at the last edge (R36). -/
def cmdReady (s : State) : Bool := s.phase = .idle ∧ s.rstN

/-- The output pins between two edges (R36). -/
def outputs (s : State) : Outputs := ⟨cmdReady s, s.done, s.result, s.fault⟩

/-- The latency of a decoded command that is not ignored (R6); FEED's degree is the DEG in force at the
accepting edge (log entry 5). -/
def commandLatency (lat : Latencies) (s : State) : Instr → Nat
  | .gfmul _ _ => lat.gfmul
  | .genpoly n => lat.genpoly n
  | .clear => lat.clear
  | .feed _ => lat.feed s.deg
  | .readrem _ | .readgen _ | .readstat _ => lat.read

/-- A word that the fault state performs: READSTAT with selector 0, 1 or 2 (R162). -/
def performedInFaultState (w : Word) : Bool :=
  match decode w with
  | .instr (.readstat sel) => selectorLegal sel
  | _ => false

/-- The latency of a word accepted in a state (R6; log entry 5). -/
def latency (lat : Latencies) (w : Word) (s : State) : Nat :=
  if s.fault ∧ !performedInFaultState w then lat.ignored
  else match decode w with
    | .instr i => commandLatency lat s i
    | .illegal _ => lat.illegal

/-- One rising edge of `clk` (R36, R38). With `rst_n = 0` the block is reset, whatever was in flight
(R180, R181). While BUSY the edge counts down, and the last one completes the word; `cmd_valid` and
`cmd_word` are not sampled. While ready an offered word is accepted. -/
def clockEdge (lat : Latencies) (p : Pins) (s : State) : Result :=
  if p.rstN then
    match s.phase with
    | .busy w left =>
      if left ≤ 1 then finish w s
      else .next { quietEdge s with phase := .busy w (left - 1) }
    | .idle =>
      if p.cmdValid ∧ cmdReady s then
        .next { quietEdge s with phase := .busy p.cmdWord (latency lat p.cmdWord s) }
      else .next (quietEdge s)
  else .next (resetEdge s)

/-- A run of rising edges, the pins of each in order. -/
def clockEdges (lat : Latencies) : List Pins → State → Result
  | [], s => .next s
  | p :: ps, s =>
    match clockEdge lat p s with
    | .next t => clockEdges lat ps t
    | .fault f => .fault f
    | .refused r => .refused r

/-- The pins of a host that offers a word (R38). -/
def offer (w : Word) : Pins := ⟨true, true, w⟩

/-- Perform words one after another, each after the one before it has completed (R47). -/
def performAll : List Word → State → Result
  | [], s => .next s
  | w :: ws, s =>
    match perform w s with
    | .next t => performAll ws t
    | .fault f => .fault f
    | .refused r => .refused r

/-- What the host observes of a run (R10). -/
structure Observation where
  results : List Byte
  fault   : Bool
  cause   : BitVec 3
  deriving DecidableEq, Repr

/-- The observation of a run: RESULT after each word, then the final FAULT and CAUSE (R10). -/
def observe : List Word → State → Host.Outcome Observation Fault Refusal
  | [], s => .next ⟨[], s.fault, s.cause⟩
  | w :: ws, s =>
    match perform w s with
    | .next t =>
      match observe ws t with
      | .next o => .next { o with results := t.result :: o.results }
      | .fault f => .fault f
      | .refused r => .refused r
    | .fault f => .fault f
    | .refused r => .refused r

/-- A command to instance `k` of a bank of blocks; the other instances are not touched (R50). A bank has
no instance past its last, and a word sent there reaches none. -/
def performAt : Nat → Word → List State → Host.Outcome (List State) Fault Refusal
  | _, _, [] => .next []
  | 0, w, s :: rest =>
    match perform w s with
    | .next t => .next (t :: rest)
    | .fault f => .fault f
    | .refused r => .refused r
  | k + 1, w, s :: rest =>
    match performAt k w rest with
    | .next ts => .next (s :: ts)
    | .fault f => .fault f
    | .refused r => .refused r

/-- One action of the command step from an idle block: an idle host changes no register (R169), a reset
is an edge with `rst_n = 0` (R180), and a word is accepted and completes (R10, R38). -/
def hostAction (s : State) : Result :=
  match s.host with
  | [] => .next (quietEdge s)
  | .reset :: rest => .next (resetEdge { s with host := rest })
  | .issue w :: rest => finish w { s with host := rest }

/-- A state whose next step takes the given word as the host's next action. -/
def offerNext (w : Word) (s : State) : State :=
  { s with phase := .idle, host := .issue w :: s.host }

end Sys2Proof.Machine
end

