-- ==== Sys2Proof/Machine/Step.lean ====
section
/-! DEFINITION. The command step: the next action of the host, performed whole (R10, R190). -/

namespace Sys2Proof.Machine

open Sys2Proof

/-- One step of the block (R10). A word already in flight completes first (log entry 3). -/
def step (s : State) : Host.Outcome State Fault Refusal :=
  match s.phase with
  | .busy w _ => finish w s
  | .idle => hostAction s

/-- `s` with the instruction whose bits are `w` as the host's next action (log entry 2). -/
def State.withFetchWord (s : State) (nbits w : Nat) : State := offerNext (tableWord nbits w) s

end Sys2Proof.Machine
end

