-- ==== Sys2Proof/Machine/Assembler.lean ====
section
/-! DEFINITION. The assembler of R67 and the pseudo-instructions of R68: reading a line of text, and
expanding source lines into commands. -/

namespace Sys2Proof

/-- Each mnemonic as it is written (R62, R68). -/
def mnemonicNames : List (String × Mnemonic) :=
  [("GFMUL", .gfmul), ("GENPOLY", .genpoly), ("CLEAR", .clear), ("FEED", .feed),
   ("READREM", .readrem), ("READGEN", .readgen), ("READSTAT", .readstat),
   ("RDSTATUS", .rdstatus), ("RDDEG", .rddeg), ("RDNMAX", .rdnmax),
   ("RSBLOCK", .rsblock), ("RSSYMBOL", .rssymbol)]

/-- The mnemonic a word of text names. -/
def readMnemonic (cs : List Char) : Option Mnemonic :=
  (mnemonicNames.find? (fun p => p.1.toList == cs)).map (·.2)

/-- The value of a digit in the given base, for bases up to 16. -/
def digitValue (base : Nat) (c : Char) : Option Nat :=
  let n := c.toNat
  let v := if 48 ≤ n ∧ n ≤ 57 then n - 48 else if 65 ≤ n ∧ n ≤ 70 then n - 55
    else if 97 ≤ n ∧ n ≤ 102 then n - 87 else base
  if v < base then some v else none

/-- The number written by digits of the given base, after the value read so far. -/
def readDigits (base : Nat) : Nat → List Char → Option Nat
  | acc, [] => some acc
  | acc, c :: cs =>
    match digitValue base c with
    | some v => readDigits base (acc * base + v) cs
    | none => none

/-- An operand: decimal, or hexadecimal written `0x..` (R67). -/
def readNumber : List Char → Option Nat
  | [] => none
  | ['0', 'x'] => none
  | '0' :: 'x' :: cs => readDigits 16 0 cs
  | cs => readDigits 10 0 cs

/-- White space between the parts of a line (log entry 9). -/
def isBlank (c : Char) : Bool := c == ' ' || c == '\t' || c == '\r'

/-- Text without white space at its ends. -/
def trimBlank (cs : List Char) : List Char :=
  ((cs.dropWhile isBlank).reverse.dropWhile isBlank).reverse

/-- Text cut at every occurrence of a separator; there is always at least one part. -/
def cutAt (sep : Char) : List Char → List (List Char)
  | [] => [[]]
  | c :: cs =>
    match cutAt sep cs with
    | [] => [[c]]
    | part :: parts => if c == sep then [] :: part :: parts else (c :: part) :: parts

/-- The operands of a line, separated by commas; `none` if one of them is no number (R67). -/
def readOperands (cs : List Char) : Option (List Nat) :=
  match trimBlank cs with
  | [] => some []
  | text => (cutAt ',' text).mapM (fun part => readNumber (trimBlank part))

/-- What one line of text holds: nothing (blank, or a comment alone), or a source line; `none` if it
cannot be read. A `;` starts a comment that runs to the end of the line (R67). -/
def readLine (cs : List Char) : Option (Option SourceLine) :=
  match trimBlank (cs.takeWhile (· != ';')) with
  | [] => some none
  | text =>
    match readMnemonic (text.takeWhile (fun c => !isBlank c)),
        readOperands (text.dropWhile (fun c => !isBlank c)) with
    | some m, some ops => some (some ⟨m, ops⟩)
    | _, _ => none

/-- `READREM 0` to `READREM n-1` (R68). -/
def readRemainder (n : Byte) : List Instr :=
  (List.range n.toNat).map (fun i => .readrem (BitVec.ofNat 8 i))

/-- `RSBLOCK d_0, …`: CLEAR, FEED each data byte in order, then read the remainder (R68). -/
def rsBlock (n : Byte) (data : List Byte) : List Instr :=
  .clear :: data.map .feed ++ readRemainder n

/-- `RSSYMBOL n; blocks`: GENPOLY n, then one RSBLOCK per block (R68). -/
def rsSymbol (n : Byte) (blocks : List (List Byte)) : List Instr :=
  .genpoly n :: blocks.flatMap (rsBlock n)

/-- The commands of one well-formed source line, given the operand of the last GENPOLY before it; a line
the assembler refuses gives `none`. RSBLOCK is refused with no GENPOLY before it (R67, R68). -/
def expandLine (lastN : Option Byte) (l : SourceLine) : Option (List Instr) :=
  if l.wellFormed then
    match l.mnemonic, l.operands.map (BitVec.ofNat 8), lastN with
    | .gfmul, [a, b], _ => some [.gfmul a b]
    | .genpoly, [n], _ => some [.genpoly n]
    | .clear, _, _ => some [.clear]
    | .feed, [d], _ => some [.feed d]
    | .readrem, [i], _ => some [.readrem i]
    | .readgen, [i], _ => some [.readgen i]
    | .readstat, [sel], _ => some [.readstat sel]
    | .rdstatus, _, _ => some [.readstat 0#8]
    | .rddeg, _, _ => some [.readstat 1#8]
    | .rdnmax, _, _ => some [.readstat 2#8]
    | .rsblock, data, some n => some (rsBlock n data)
    | .rssymbol, [n], _ => some [.genpoly n]
    | _, _, _ => none
  else none

/-- The operand of the last GENPOLY in a list of commands, if there is one. -/
def lastGenpoly (before : Option Byte) : List Instr → Option Byte
  | [] => before
  | .genpoly n :: rest => lastGenpoly (some n) rest
  | _ :: rest => lastGenpoly before rest

/-- The commands of a program, line by line; `none` if the assembler refuses a line. -/
def assemble (lastN : Option Byte) : List SourceLine → Option (List Instr)
  | [] => some []
  | l :: ls =>
    match expandLine lastN l with
    | none => none
    | some is =>
      match assemble (lastGenpoly lastN is) ls with
      | none => none
      | some rest => some (is ++ rest)

/-- The command words of a program text, one command per line (R67). -/
def assembleText (text : String) : Option (List Word) :=
  match (cutAt '\n' text.toList).mapM readLine with
  | none => none
  | some lines => (assemble none (lines.filterMap id)).map (·.map encode)

end Sys2Proof
end

