-- ==== Sys2Proof/Safety.lean ====
section
/-! DEFINITION. What claims are stated in: the invariants of R37, the register-file lengths, what two
states share when no command can tell them apart, and the words of a block's FEED commands. -/

namespace Sys2Proof.Machine

open Sys2Proof

/-- Both register files have `NMAX` cells (R21, R22), and `NMAX` is legal (R5). -/
def State.wellSized (s : State) : Prop :=
  Config.legalNmax s.nmax = true ∧ s.g.length = s.nmax.toNat ∧ s.r.length = s.nmax.toNat

/-- The active cells of the generator register file as the polynomial they stand for, its leading 1
put back (R21). -/
def State.heldGenerator (s : State) : Poly :=
  Poly.ofHighFirst (0x01#8 :: s.g.take s.deg.toNat)

/-- The active cells of the shift register as the polynomial they stand for (R22, R42). -/
def State.heldRemainder (s : State) : Poly := Poly.ofHighFirst (s.r.take s.deg.toNat)

/-- The invariants of R37, (a) to (e), with the register-file lengths. -/
structure State.Inv (s : State) : Prop where
  sized : s.wellSized
  degLe : s.deg.toNat ≤ s.nmax.toNat
  restZero : ∀ j, s.deg.toNat ≤ j → cell s.r j = 0#8 ∧ cell s.g j = 0#8
  noCause : s.fault = false → s.cause = 0#3
  aCause : s.fault = true → 1 ≤ s.cause.toNat ∧ s.cause.toNat ≤ 4
  generator : 1 ≤ s.deg.toNat → s.heldGenerator = generatorPoly s.deg.toNat

/-- The registers that no command reads in part: everything but `G` and `R` is equal, and of those two
the cells below DEG are (U9, U10). -/
def State.sameActive (s t : State) : Prop :=
  t = { s with g := t.g, r := t.r } ∧
    s.g.take s.deg.toNat = t.g.take t.deg.toNat ∧ s.r.take s.deg.toNat = t.r.take t.deg.toNat

/-- The words of the FEED commands of a data block, first byte first (R42). -/
def feedWords (data : List Byte) : List Word := data.map (fun d => encode (.feed d))

/-- The shift register is clear, as after GENPOLY or CLEAR (R123). -/
def State.remainderClear (s : State) : Prop := ∀ j, j < s.deg.toNat → cell s.r j = 0#8

/-- The correction codewords in the active cells, in emission order (R42). -/
def State.codewords (s : State) : List Byte := s.r.take s.deg.toNat

/-- A command that needs a generator (R152). -/
def needsGenerator : Instr → Bool
  | .feed _ | .readrem _ | .readgen _ => true
  | _ => false

end Sys2Proof.Machine
end

