-- ==== Sys2Proof/Certificates/Slice0/Obligations.lean ====
section
/-! DEFINITION. The statements about the model, each from the numbered rules of spec/. Fault codes and field
positions are written as numbers here, so that a statement does not lean on the model's own names for them. -/

open Sys2Proof Sys2Proof.Machine

/-- The table of R104: for n = 1 to 30, the cells `G[0..n-1]` and the exponents of ALPHA they are. -/
def Sys2Proof.generatorTable : List (List Byte × List Nat) :=
  [([0x01],
    [0]),
   ([0x03, 0x02],
    [25, 1]),
   ([0x07, 0x0E, 0x08],
    [198, 199, 3]),
   ([0x0F, 0x36, 0x78, 0x40],
    [75, 249, 78, 6]),
   ([0x1F, 0xC6, 0x3F, 0x93, 0x74],
    [113, 164, 166, 119, 10]),
   ([0x3F, 0x01, 0xDA, 0x20, 0xE3, 0x26],
    [166, 0, 134, 5, 176, 15]),
   ([0x7F, 0x7A, 0x9A, 0xA4, 0x0B, 0x44, 0x75],
    [87, 229, 146, 149, 238, 102, 21]),
   ([0xFF, 0x0B, 0x51, 0x36, 0xEF, 0xAD, 0xC8, 0x18],
    [175, 238, 208, 249, 215, 252, 196, 28]),
   ([0xE2, 0xCF, 0x9E, 0xF5, 0xEB, 0xA4, 0xE8, 0xC5, 0x25],
    [95, 246, 137, 231, 235, 149, 11, 123, 36]),
   ([0xD8, 0xC2, 0x9F, 0x6F, 0xC7, 0x5E, 0x5F, 0x71, 0x9D, 0xC1],
    [251, 67, 46, 61, 118, 70, 64, 94, 32, 45])] ++
  [([0xAC, 0x82, 0xA3, 0x32, 0x7B, 0xDB, 0xA2, 0xF8, 0x90, 0x74, 0xA0],
    [220, 192, 91, 194, 172, 177, 209, 116, 227, 10, 55]),
   ([0x44, 0x77, 0x43, 0x76, 0xDC, 0x1F, 0x07, 0x54, 0x5C, 0x7F, 0xD5, 0x61],
    [102, 43, 98, 121, 187, 113, 198, 143, 131, 87, 157, 66]),
   ([0x89, 0x49, 0xE3, 0x11, 0xB1, 0x11, 0x34, 0x0D, 0x2E, 0x2B, 0x53, 0x84, 0x78],
    [74, 152, 176, 100, 86, 100, 106, 104, 130, 218, 206, 140, 78]),
   ([0x0E, 0x36, 0x72, 0x46, 0xAE, 0x97, 0x2B, 0x9E, 0xC3, 0x7F, 0xA6, 0xD2, 0xEA, 0xA3],
    [199, 249, 155, 48, 190, 124, 218, 137, 216, 87, 207, 59, 22, 91]),
   ([0x1D, 0xC4, 0x6F, 0xA3, 0x70, 0x4A, 0x0A, 0x69, 0x69, 0x8B, 0x84, 0x97, 0x20, 0x86, 0x1A],
    [8, 183, 61, 91, 202, 37, 51, 58, 58, 237, 140, 124, 5, 99, 105]),
   ([0x3B, 0x0D, 0x68, 0xBD, 0x44, 0xD1, 0x1E, 0x08, 0xA3, 0x41, 0x29, 0xE5, 0x62, 0x32, 0x24, 0x3B],
    [120, 104, 107, 109, 102, 161, 76, 3, 91, 191, 147, 169, 182, 194, 225, 120]),
   ([0x77, 0x42, 0x53, 0x78, 0x77, 0x16, 0xC5, 0x53, 0xF9, 0x29, 0x8F, 0x86, 0x55, 0x35, 0x7D, 0x63, 0x4F],
    [43, 139, 206, 78, 43, 239, 123, 206, 214, 147, 24, 99, 150, 39, 243, 163, 136]),
   ([0xEF, 0xFB, 0xB7, 0x71, 0x95, 0xAF, 0xC7, 0xD7, 0xF0, 0xDC, 0x49, 0x52, 0xAD, 0x4B, 0x20, 0x43, 0xD9, 0x92],
    [215, 234, 158, 94, 184, 97, 118, 170, 79, 187, 152, 148, 252, 179, 5, 98, 96, 153]),
   ([0xC2, 0x08, 0x1A, 0x92, 0x14, 0xDF, 0xBB, 0x98, 0x55, 0x73, 0xEE, 0x85, 0x92, 0x6D, 0xAD, 0x8A, 0x21, 0xAC, 0xB3],
    [67, 3, 105, 153, 52, 90, 83, 17, 150, 159, 44, 128, 153, 133, 252, 222, 138, 220, 171]),
   ([0x98, 0xB9, 0xF0, 0x05, 0x6F, 0x63, 0x06, 0xDC, 0x70, 0x96, 0x45, 0x24, 0xBB, 0x16, 0xE4, 0xC6, 0x79, 0x79, 0xA5, 0xAE],
    [17, 60, 79, 50, 61, 163, 26, 187, 202, 180, 221, 225, 83, 239, 156, 164, 212, 212, 188, 190])] ++
  [([0x2C, 0xF3, 0x0D, 0x83, 0x31, 0x84, 0xC2, 0x43, 0xD6, 0x1C, 0x59, 0x7C, 0x52, 0x9E, 0xF4, 0x25, 0xEC, 0x8E, 0x52, 0xFF, 0x59],
    [240, 233, 104, 247, 181, 140, 67, 98, 85, 200, 210, 115, 148, 137, 230, 36, 122, 254, 148, 175, 210]),
   ([0x59, 0xB3, 0x83, 0xB0, 0xB6, 0xF4, 0x13, 0xBD, 0x45, 0x28, 0x1C, 0x89, 0x1D, 0x7B, 0x43, 0xFD, 0x56, 0xDA, 0xE6, 0x1A, 0x91, 0xF5],
    [210, 171, 247, 242, 93, 230, 14, 109, 221, 53, 200, 74, 8, 172, 98, 80, 219, 134, 160, 105, 165, 231]),
   ([0xB3, 0x44, 0x9A, 0xA3, 0x8C, 0x88, 0xBE, 0x98, 0x19, 0x55, 0x13, 0x03, 0xC4, 0x1B, 0x71, 0xC6, 0x12, 0x82, 0x02, 0x78, 0x5D, 0x29, 0x47],
    [171, 102, 146, 91, 49, 103, 65, 17, 193, 150, 14, 25, 183, 248, 94, 164, 224, 192, 1, 78, 56, 147, 253]),
   ([0x7A, 0x76, 0xA9, 0x46, 0xB2, 0xED, 0xD8, 0x66, 0x73, 0x96, 0xE5, 0x49, 0x82, 0x48, 0x3D, 0x2B, 0xCE, 0x01, 0xED, 0xF7, 0x7F, 0xD9, 0x90, 0x75],
    [229, 121, 135, 48, 211, 117, 251, 126, 159, 180, 169, 152, 192, 226, 228, 218, 111, 0, 117, 232, 87, 96, 227, 21]),
   ([0xF5, 0x31, 0xE4, 0x35, 0xD7, 0x06, 0xCD, 0xD2, 0x26, 0x52, 0x38, 0x50, 0x61, 0x8B, 0x51, 0x86, 0x7E, 0xA8, 0x62, 0xE2, 0x7D, 0x17, 0xAB, 0xAD, 0xC1],
    [231, 181, 156, 39, 170, 26, 12, 59, 15, 148, 201, 54, 66, 237, 208, 99, 167, 144, 182, 95, 243, 129, 178, 252, 45]),
   ([0xF6, 0x33, 0xB7, 0x04, 0x88, 0x62, 0xC7, 0x98, 0x4D, 0x38, 0xCE, 0x18, 0x91, 0x28, 0xD1, 0x75, 0xE9, 0x2A, 0x87, 0x44, 0x46, 0x90, 0x92, 0x4D, 0x2B, 0x5E],
    [173, 125, 158, 2, 103, 182, 118, 17, 145, 201, 111, 28, 165, 53, 161, 21, 245, 142, 13, 102, 48, 227, 153, 145, 218, 70]),
   ([0xF0, 0x3D, 0x1D, 0x91, 0x90, 0x75, 0x96, 0x30, 0x3A, 0x8B, 0x5E, 0x86, 0xC1, 0x69, 0x21, 0xA9, 0xCA, 0x66, 0x7B, 0x71, 0xC3, 0x19, 0xD5, 0x06, 0x98, 0xA4, 0xD9],
    [79, 228, 8, 165, 227, 21, 180, 29, 9, 237, 70, 99, 45, 58, 138, 135, 73, 126, 172, 94, 216, 193, 157, 26, 17, 149, 96]),
   ([0xFC, 0x09, 0x1C, 0x0D, 0x12, 0xFB, 0xD0, 0x96, 0x67, 0xAE, 0x64, 0x29, 0xA7, 0x0C, 0xF7, 0x38, 0x75, 0x77, 0xE9, 0x7F, 0xB5, 0x64, 0x79, 0x93, 0xB0, 0x4A, 0x3A, 0xC5],
    [168, 223, 200, 104, 224, 234, 108, 180, 110, 190, 195, 147, 205, 27, 232, 201, 21, 43, 245, 87, 42, 195, 212, 119, 242, 37, 9, 123]),
   ([0xE4, 0xC1, 0xC4, 0x30, 0xAA, 0x56, 0x50, 0xD9, 0x36, 0x8F, 0x4F, 0x20, 0x58, 0xFF, 0x57, 0x18, 0x0F, 0xFB, 0x55, 0x52, 0xC9, 0x3A, 0x70, 0xBF, 0x99, 0x6C, 0x84, 0x8F, 0xAA],
    [156, 45, 183, 29, 151, 219, 54, 96, 249, 24, 136, 5, 241, 175, 189, 28, 75, 234, 150, 148, 23, 9, 202, 162, 68, 250, 140, 24, 151]),
   ([0xD4, 0xF6, 0x4D, 0x49, 0xC3, 0xC0, 0x4B, 0x62, 0x05, 0x46, 0x67, 0xB1, 0x16, 0xD9, 0x8A, 0x33, 0xB5, 0xF6, 0x48, 0x19, 0x12, 0x2E, 0xE4, 0x4A, 0xD8, 0xC3, 0x0B, 0x6A, 0x82, 0x96],
    [41, 173, 145, 152, 216, 31, 179, 182, 50, 48, 110, 86, 239, 96, 222, 125, 42, 173, 226, 193, 224, 130, 156, 37, 251, 216, 238, 40, 192, 180])]

/-! ### Reset and the invariants of R37 -/

/-- R35 and R182: the reset values, on this hardware's 30 cells; STATUS then reads 0x00. -/
def Obligations.ResetLeavesEveryRegisterZero : Prop :=
  State.reset.deg = 0#8 ∧ State.reset.result = 0#8 ∧ State.reset.fault = false ∧
    State.reset.cause = 0#3 ∧ State.reset.phase = .idle ∧
    State.reset.nmax = 30#8 ∧ State.reset.g.length = 30 ∧ State.reset.r.length = 30 ∧
    (∀ j, cell State.reset.g j = 0#8 ∧ cell State.reset.r j = 0#8) ∧
    status State.reset = 0x00#8

/-- R180 and R181: an edge with `rst_n = 0`, from ANY state (a command in flight, the fault state, the
unspecified state before the first reset), leaves every register at its reset value; `cmd_ready` is then 0,
and 1 after the next edge with `rst_n = 1`, whatever the host offers at it; `done` is raised at neither. -/
def Obligations.ResetEdgeResetsAnyState : Prop :=
  ∀ (lat : Latencies) (p q : Pins) (s : State), p.rstN = false → q.rstN = true →
    ∃ t u, clockEdge lat p s = .next t ∧ clockEdge lat q t = .next u ∧
      t.deg = 0#8 ∧ t.result = 0#8 ∧ t.fault = false ∧ t.cause = 0#3 ∧ t.phase = .idle ∧
      t.nmax = s.nmax ∧ t.g = List.replicate s.nmax.toNat 0#8 ∧
      t.r = List.replicate s.nmax.toNat 0#8 ∧
      outputs t = ⟨false, false, 0#8, false⟩ ∧ outputs u = ⟨true, false, 0#8, false⟩

/-- R37 from reset: the invariants hold in the reset state of a block with any legal NMAX. -/
def Obligations.ResetSatisfiesTheInvariants : Prop :=
  ∀ nmax : Byte, 1 ≤ nmax.toNat → (State.resetWith nmax).Inv

/-- R37: every step keeps the invariants (a) to (e), and the register files keep their NMAX cells; so every
state reachable from reset has them, for any legal NMAX and any actions of the host. -/
def Obligations.StepKeepsTheInvariants : Prop :=
  (∀ s t : State, s.Inv → step s = .next t → t.Inv) ∧
    ∀ (nmax : Byte) (actions : List HostAction) (k : Nat) (t : State), 1 ≤ nmax.toNat →
      core.run k { State.resetWith nmax with host := actions } = .next t → t.Inv

/-- R37 in the clock-edge machine: every rising edge keeps the invariants, for any latencies and pins. -/
def Obligations.ClockEdgeKeepsTheInvariants : Prop :=
  ∀ (lat : Latencies) (p : Pins) (s t : State), s.Inv → clockEdge lat p s = .next t → t.Inv

/-! ### Encoding -/

/-- R60, R62, R65: the decoder gives back every encoded command, also through the table's bit numbering. -/
def Obligations.DecodeInvertsEncode : Prop :=
  ∀ i : Instr, decode (encode i) = .instr i ∧ decodeTableWord 32 (encode i).toNat = some i

/-- R60, R65: a word that decodes to a command is that command's only encoding. -/
def Obligations.EncodeInvertsDecode : Prop :=
  ∀ (w : Word) (i : Instr), decode w = .instr i → encode i = w

/-- R62: a word is a command exactly when it matches a row of the map, and no word matches two rows. -/
def Obligations.OpcodeMapIsExactAndDisjoint : Prop :=
  (∀ w : Word, (∃ i, decode w = .instr i) ↔
    w &&& 0xFFFF0000#32 = 0x01000000#32 ∨ w &&& 0xFFFFFF00#32 = 0x02000000#32 ∨
    w &&& 0xFFFFFFFF#32 = 0x03000000#32 ∨ w &&& 0xFFFFFF00#32 = 0x04000000#32 ∨
    w &&& 0xFFFFFF00#32 = 0x05000000#32 ∨ w &&& 0xFFFFFF00#32 = 0x06000000#32 ∨
    w &&& 0xFFFFFF00#32 = 0x07000000#32) ∧
  (∀ w : Word, opcodeMap.Pairwise (fun a b => ¬ (a.holds w = true ∧ b.holds w = true))) ∧
  (∀ i : Instr, ∃ row ∈ opcodeMap,
    row.mnemonic = i.source.mnemonic ∧ encode i &&& row.mask = row.matchBits)

/-- R151: exactly these words are illegal, and each raises ILLEGAL_CMD (code 1) outside the fault state,
whatever the state holds. -/
def Obligations.IllegalWordsRaiseIllegalCmd : Prop :=
  ∀ w : Word,
    ((∃ why, decode w = .illegal why) ↔
      w.extractLsb' 24 8 = 0x00#8 ∨ 0x08#8 ≤ w.extractLsb' 24 8 ∨ w.extractLsb' 16 8 ≠ 0#8 ∨
      (w.extractLsb' 24 8 ≠ 0x01#8 ∧ w.extractLsb' 8 8 ≠ 0#8) ∨
      (w.extractLsb' 24 8 = 0x03#8 ∧ w.extractLsb' 0 8 ≠ 0#8)) ∧
    ∀ s : State, s.fault = false → (∃ why, decode w = .illegal why) →
      perform w s = .next { s with fault := true, cause := 1#3 }

/-- The decode table of 95_test_vectors.md section 2.5, one word for each command and illegal class. -/
def Obligations.SampleWordsDecode : Prop :=
  decode 0x0100FFFF#32 = .instr (.gfmul 0xFF#8 0xFF#8) ∧
    decode 0x02000016#32 = .instr (.genpoly 22#8) ∧ decode 0x03000000#32 = .instr .clear ∧
    decode 0x040000EC#32 = .instr (.feed 0xEC#8) ∧ decode 0x05000015#32 = .instr (.readrem 21#8) ∧
    decode 0x060000FF#32 = .instr (.readgen 255#8) ∧
    decode 0x07000002#32 = .instr (.readstat 2#8) ∧
    [0x00000000#32, 0xFFFFFFFF#32, 0x08000000#32, 0x01FF0000#32, 0x02001600#32, 0x030000FF#32].all
      (fun w => (decode w).instr?.isNone) = true

/-! ### The field -/

/-- R81: bit k of the carry-less product is the sum over GF(2) of the products a_(k-i)·b_i. -/
def Obligations.CarrylessProductConvolvesBits : Prop :=
  ∀ (a b : Byte) (k : Nat), k < 15 →
    (clmul a b).getLsbD k =
      (List.range 8).foldl (fun acc i => acc ^^ (decide (i ≤ k) && a.getLsbD (k - i) && b.getLsbD i)) false

/-- R82: the field product is congruent to the carry-less product modulo PRIM_POLY: they differ by a
multiple q·(x^8 + 0x1D) of 0x11D, and the field product is a byte. -/
def Obligations.FieldProductReducesByPrimPoly : Prop :=
  ∀ a b : Byte, ∃ q : Byte, q.toNat < 128 ∧
    clmul a b =
      (gfMul a b).setWidth 15 ^^^ clmul q 0x1D#8 ^^^ (q.setWidth 15 <<< 8)

/-- R83: the bit-serial form gives the same byte for every operand pair. -/
def Obligations.BitSerialProductAgrees : Prop :=
  ∀ a b : Byte, gfMulSerial a b = gfMul a b

/-- R84: the laws of the field product. -/
def Obligations.FieldProductLaws : Prop :=
  (∀ a b, gfMul a b = gfMul b a) ∧
    (∀ a b c, gfMul (gfMul a b) c = gfMul a (gfMul b c)) ∧
    (∀ a b c, gfMul a (b ^^^ c) = gfMul a b ^^^ gfMul a c) ∧
    (∀ a, gfMul a 0x00#8 = 0x00#8) ∧ (∀ a, gfMul a 0x01#8 = a) ∧
    (∀ a b, gfMul a b = 0x00#8 → a = 0x00#8 ∨ b = 0x00#8) ∧
    (∀ a, a ≠ 0x00#8 → ∃! a', gfMul a a' = 0x01#8)

/-- R85: 0x02 is primitive: its powers 0 to 254 are distinct and nonzero, and the 255th is 1. -/
def Obligations.AlphaIsPrimitive : Prop :=
  alphaPow 0 = 0x01#8 ∧ (∀ i, alphaPow (i + 1) = gfMul (alphaPow i) 0x02#8) ∧
    (∀ i j, i < 255 → j < 255 → alphaPow i = alphaPow j → i = j) ∧
    (∀ i, alphaPow i ≠ 0x00#8) ∧ alphaPow 255 = 0x01#8

/-! ### The generator polynomial -/

/-- R100: g_n is monic of degree n, and its roots are exactly ALPHA^0 to ALPHA^(n-1). -/
def Obligations.GeneratorHasExactlyItsRoots : Prop :=
  ∀ n, 1 ≤ n → n ≤ 255 →
    (generatorPoly n).length = n + 1 ∧ (generatorPoly n).getLast? = some 0x01#8 ∧
      ∀ x : Byte, Poly.eval x (generatorPoly n) = 0x00#8 ↔ ∃ i, i < n ∧ x = alphaPow i

/-- R104: READGEN reproduces every row of the table after GENPOLY, and the exponents name the same bytes. -/
def Obligations.ReadgenReproducesTheTable : Prop :=
  generatorTable.map (fun row => row.1.length) = (List.range 30).map (· + 1) ∧
    ∀ row ∈ generatorTable, row.2.length = row.1.length ∧
      ∀ j, j < row.1.length →
        alphaPow (row.2.getD j 0) = cell row.1 j ∧
        ∃ t, performAll [encode (.genpoly (BitVec.ofNat 8 row.1.length)),
            encode (.readgen (BitVec.ofNat 8 j))] State.reset = .next t ∧
          t.fault = false ∧ t.result = cell row.1 j

/-! ### The commands -/

/-- R86: GFMUL's encoding, its effect on RESULT alone, its only fault, and its corner cases. -/
def Obligations.GfmulWritesTheProduct : Prop :=
  (∀ w : Word, w &&& 0xFFFF0000#32 = 0x01000000#32 →
    decode w = .instr (.gfmul (w.extractLsb' 8 8) (w.extractLsb' 0 8))) ∧
  (∀ (w : Word) (s : State), w.extractLsb' 24 8 = 0x01#8 → w.extractLsb' 16 8 ≠ 0#8 →
    s.fault = false → perform w s = .next { s with fault := true, cause := 1#3 }) ∧
  (∀ (a b : Byte) (s : State), s.fault = true → exec (.gfmul a b) s = .next s) ∧
  (∀ (a b : Byte) (s : State), s.fault = false →
    exec (.gfmul a b) s = .next { s with result := gfMul a b }) ∧
  (∀ b, gfMul 0x00#8 b = 0x00#8 ∧ gfMul b 0x00#8 = 0x00#8 ∧ gfMul 0x01#8 b = b) ∧
  (∀ a b, gfMul a b = gfMul b a) ∧
  gfMul 0x80#8 0x02#8 = 0x1D#8 ∧
  (∀ s : State, s.fault = false → perform 0x010053CA#32 s = .next { s with result := 0x8F#8 })

/-- R101: GENPOLY builds g_n above zeros, clears R and sets DEG; otherwise BAD_DEGREE (code 3) with nothing
else changed; its encoding and corner cases. -/
def Obligations.GenpolyBuildsTheGenerator : Prop :=
  (∀ w : Word, w &&& 0xFFFFFF00#32 = 0x02000000#32 →
    decode w = .instr (.genpoly (w.extractLsb' 0 8))) ∧
  (∀ (w : Word) (s : State), w.extractLsb' 24 8 = 0x02#8 →
    w.extractLsb' 8 8 ≠ 0#8 ∨ w.extractLsb' 16 8 ≠ 0#8 → s.fault = false →
    perform w s = .next { s with fault := true, cause := 1#3 }) ∧
  (∀ (n : Byte) (s : State), s.fault = true → exec (.genpoly n) s = .next s) ∧
  (∀ (n : Byte) (s : State), s.fault = false → n.toNat = 0 ∨ s.nmax.toNat < n.toNat →
    exec (.genpoly n) s = .next { s with fault := true, cause := 3#3 }) ∧
  (∀ (n : Byte) (s : State), s.fault = false → 1 ≤ n.toNat → n.toNat ≤ s.nmax.toNat →
    ∃ cells, exec (.genpoly n) s = .next { s with
        deg := n
        g := cells ++ List.replicate (s.nmax.toNat - n.toNat) 0x00#8
        r := List.replicate s.nmax.toNat 0x00#8 } ∧
      cells.length = n.toNat ∧ Poly.ofHighFirst (0x01#8 :: cells) = generatorPoly n.toNat ∧
      (n.toNat = 1 → cells = [0x01#8]) ∧ (n.toNat = 2 → cells = [0x03#8, 0x02#8]))

/-- R103: READGEN reads `G[i]` below DEG into RESULT alone; NO_GENERATOR (code 2) first, then BAD_INDEX
(code 4); its encoding, and the worked example. -/
def Obligations.ReadgenReadsOneCoefficient : Prop :=
  (∀ w : Word, w &&& 0xFFFFFF00#32 = 0x06000000#32 →
    decode w = .instr (.readgen (w.extractLsb' 0 8))) ∧
  (∀ (w : Word) (s : State), w.extractLsb' 24 8 = 0x06#8 →
    w.extractLsb' 8 8 ≠ 0#8 ∨ w.extractLsb' 16 8 ≠ 0#8 → s.fault = false →
    perform w s = .next { s with fault := true, cause := 1#3 }) ∧
  (∀ (i : Byte) (s : State), s.fault = true → exec (.readgen i) s = .next s) ∧
  (∀ (i : Byte) (s : State), s.fault = false → s.deg.toNat = 0 →
    exec (.readgen i) s = .next { s with fault := true, cause := 2#3 }) ∧
  (∀ (i : Byte) (s : State), s.fault = false → s.deg.toNat ≠ 0 → s.deg.toNat ≤ i.toNat →
    exec (.readgen i) s = .next { s with fault := true, cause := 4#3 }) ∧
  (∀ (i : Byte) (s : State), s.fault = false → i.toNat < s.deg.toNat →
    exec (.readgen i) s = .next { s with result := cell s.g i.toNat }) ∧
  ∃ t, performAll [0x02000007#32, 0x06000006#32] State.reset = .next t ∧ t.result = 0x75#8 ∧
    alphaPow 21 = 0x75#8

/-- R120: `shift_in(n)` moves cells 1 to n-1 down by one, drops cell 0, sets cell n-1 to 0x00, and leaves the
cells from n on alone. -/
def Obligations.ShiftInDropsFirstSetsLast : Prop :=
  ∀ (n : Nat) (r : List Byte), 1 ≤ n → n ≤ r.length →
    (shiftIn n r).length = r.length ∧
      ∀ j, cell (shiftIn n r) j =
        if j + 1 < n then cell r (j + 1) else if j + 1 = n then 0x00#8 else cell r j

/-- R121: CLEAR zeroes all of R and nothing else, also while DEG = 0; its encoding, its only fault, and that
a second CLEAR, or one after GENPOLY, changes nothing. -/
def Obligations.ClearEmptiesTheShiftRegister : Prop :=
  (decode 0x03000000#32 = .instr .clear) ∧
  (∀ (w : Word) (s : State), w.extractLsb' 24 8 = 0x03#8 →
    w.extractLsb' 0 8 ≠ 0#8 ∨ w.extractLsb' 8 8 ≠ 0#8 ∨ w.extractLsb' 16 8 ≠ 0#8 →
    s.fault = false → perform w s = .next { s with fault := true, cause := 1#3 }) ∧
  (∀ s : State, s.fault = true → exec .clear s = .next s) ∧
  (∀ s : State, s.fault = false →
    exec .clear s = .next { s with r := List.replicate s.nmax.toNat 0x00#8 }) ∧
  (∀ s t : State, exec .clear s = .next t → exec .clear t = .next t) ∧
  (∀ (n : Byte) (s t : State), exec (.genpoly n) s = .next t → t.fault = false →
    exec .clear t = .next t)

/-- R122: one FEED is the shift of R120 and the sum of f·G[j] into each active cell, with f from the old
R[0]; NO_GENERATOR (code 2) while DEG = 0; its encoding, corner cases and worked example. -/
def Obligations.FeedDividesOneStep : Prop :=
  (∀ w : Word, w &&& 0xFFFFFF00#32 = 0x04000000#32 →
    decode w = .instr (.feed (w.extractLsb' 0 8))) ∧
  (∀ (w : Word) (s : State), w.extractLsb' 24 8 = 0x04#8 →
    w.extractLsb' 8 8 ≠ 0#8 ∨ w.extractLsb' 16 8 ≠ 0#8 → s.fault = false →
    perform w s = .next { s with fault := true, cause := 1#3 }) ∧
  (∀ (d : Byte) (s : State), s.fault = true → exec (.feed d) s = .next s) ∧
  (∀ (d : Byte) (s : State), s.fault = false → s.deg.toNat = 0 →
    exec (.feed d) s = .next { s with fault := true, cause := 2#3 }) ∧
  (∀ (d : Byte) (s : State), s.wellSized → s.fault = false → 1 ≤ s.deg.toNat →
    s.deg.toNat ≤ s.nmax.toNat →
    ∃ r', exec (.feed d) s = .next { s with r := r' } ∧ r'.length = s.r.length ∧
      (∀ j, s.deg.toNat ≤ j → cell r' j = cell s.r j) ∧
      (∀ j, j < s.deg.toNat → cell r' j =
        (if j + 1 < s.deg.toNat then cell s.r (j + 1) else 0x00#8) ^^^
          gfMul (cell s.g j) (d ^^^ cell s.r 0)) ∧
      (d = cell s.r 0 → r' = shiftIn s.deg.toNat s.r) ∧
      (s.deg.toNat = 1 → cell s.g 0 = 0x01#8 → cell r' 0 = d ^^^ cell s.r 0)) ∧
  ∃ t, performAll [0x02000002#32, 0x04000012#32] State.reset = .next t ∧
    cell t.r 0 = 0x36#8 ∧ cell t.r 1 = 0x24#8

/-- R124: READREM reads `R[i]` below DEG into RESULT alone, without shifting; NO_GENERATOR (code 2) first, then
BAD_INDEX (code 4); its encoding, and the worked example. -/
def Obligations.ReadremReadsOneCodeword : Prop :=
  (∀ w : Word, w &&& 0xFFFFFF00#32 = 0x05000000#32 →
    decode w = .instr (.readrem (w.extractLsb' 0 8))) ∧
  (∀ (w : Word) (s : State), w.extractLsb' 24 8 = 0x05#8 →
    w.extractLsb' 8 8 ≠ 0#8 ∨ w.extractLsb' 16 8 ≠ 0#8 → s.fault = false →
    perform w s = .next { s with fault := true, cause := 1#3 }) ∧
  (∀ (i : Byte) (s : State), s.fault = true → exec (.readrem i) s = .next s) ∧
  (∀ (i : Byte) (s : State), s.fault = false → s.deg.toNat = 0 →
    exec (.readrem i) s = .next { s with fault := true, cause := 2#3 }) ∧
  (∀ (i : Byte) (s : State), s.fault = false → s.deg.toNat ≠ 0 → s.deg.toNat ≤ i.toNat →
    exec (.readrem i) s = .next { s with fault := true, cause := 4#3 }) ∧
  (∀ (i : Byte) (s : State), s.fault = false → i.toNat < s.deg.toNat →
    exec (.readrem i) s = .next { s with result := cell s.r i.toNat }) ∧
  ∃ t, performAll [0x02000002#32, 0x03000000#32, 0x04000012#32, 0x04000034#32, 0x04000056#32,
      0x05000001#32] State.reset = .next t ∧ t.result = 0xE8#8

/-- R140: READSTAT reads STATUS, DEG or NMAX into RESULT alone, in the fault state too; a selector above 2 is
BAD_INDEX (code 4), or ignored in the fault state; its encoding, corner cases and worked examples. -/
def Obligations.ReadstatReadsStatusDegreeCapacity : Prop :=
  (∀ w : Word, w &&& 0xFFFFFF00#32 = 0x07000000#32 →
    decode w = .instr (.readstat (w.extractLsb' 0 8))) ∧
  (∀ (w : Word) (s : State), w.extractLsb' 24 8 = 0x07#8 →
    w.extractLsb' 8 8 ≠ 0#8 ∨ w.extractLsb' 16 8 ≠ 0#8 →
    perform w s = .next (if s.fault then s else { s with fault := true, cause := 1#3 })) ∧
  (∀ s : State, exec (.readstat 0#8) s = .next { s with
      result := BitVec.ofBool s.fault ++ BitVec.ofBool (decide (s.deg ≠ 0#8)) ++ s.cause ++ 0#3 } ∧
    exec (.readstat 1#8) s = .next { s with result := s.deg } ∧
    exec (.readstat 2#8) s = .next { s with result := s.nmax }) ∧
  (∀ (sel : Byte) (s : State), 2 < sel.toNat → s.fault = false →
    exec (.readstat sel) s = .next { s with fault := true, cause := 4#3 }) ∧
  (∀ (sel : Byte) (s : State), 2 < sel.toNat → s.fault = true →
    exec (.readstat sel) s = .next s) ∧
  [([0x07000000#32], 0x00#8), ([0x07000001#32], 0x00#8), ([0x02000000#32, 0x07000000#32], 0x98#8),
    ([0x0200000A#32, 0x02000000#32, 0x07000000#32], 0xD8#8),
    ([0x0200000A#32, 0x02000000#32, 0x07000001#32], 0x0A#8),
    ([0x0200000A#32, 0x07000000#32], 0x40#8), ([0x07000002#32], 0x1E#8)].all (fun run =>
      match performAll run.1 State.reset with
      | .next t => t.result == run.2
      | .fault _ => false
      | .refused _ => false) = true

/-- R27: the layout of STATUS, bit by bit, and that READSTAT 0 reads it. -/
def Obligations.StatusHasItsLayout : Prop :=
  ∀ s : State,
    (status s).getLsbD 7 = s.fault ∧ ((status s).getLsbD 6 = true ↔ s.deg ≠ 0#8) ∧
      (status s).extractLsb' 3 3 = s.cause ∧ (status s).extractLsb' 0 3 = 0#3 ∧
      exec (.readstat 0#8) s = .next { s with result := status s }

/-! ### The remainder -/

/-- R123: from a clear register, FEEDs of a data block of ANY length complete without a fault and leave
D(x)·x^n mod g_n(x): there is a quotient q with D·x^n = q·g_n + R, and R has n coefficients. Nothing but R
changes. -/
def Obligations.FeedsLeaveTheRemainder : Prop :=
  ∀ (s : State) (data : List Byte), s.Inv → s.fault = false → 1 ≤ s.deg.toNat → s.remainderClear →
    ∃ (t : State) (q : Poly), performAll (feedWords data) s = .next t ∧ t = { s with r := t.r } ∧
      q.length = data.length ∧ t.heldRemainder.length = s.deg.toNat ∧
      Poly.add (Poly.mul q (generatorPoly s.deg.toNat)) t.heldRemainder =
        Poly.shift s.deg.toNat (Poly.ofHighFirst data)

/-- R125 (a): the data followed by the correction codewords is a codeword: it vanishes at ALPHA^0 to
ALPHA^(n-1). -/
def Obligations.FedBlockIsACodeword : Prop :=
  ∀ (s : State) (data : List Byte), s.Inv → s.fault = false → 1 ≤ s.deg.toNat → s.remainderClear →
    ∃ t, performAll (feedWords data) s = .next t ∧ t.codewords.length = s.deg.toNat ∧
      ∀ i, i < s.deg.toNat →
        Poly.eval (alphaPow i) (Poly.ofHighFirst (data ++ t.codewords)) = 0x00#8

/-- R125 (b): the remainder of the bytewise XOR of two equal-length data blocks is the XOR of their
remainders. -/
def Obligations.RemainderIsLinear : Prop :=
  ∀ (s : State) (xs ys : List Byte), s.Inv → s.fault = false → 1 ≤ s.deg.toNat →
    s.remainderClear → xs.length = ys.length →
    ∃ t u v, performAll (feedWords xs) s = .next t ∧ performAll (feedWords ys) s = .next u ∧
      performAll (feedWords (List.zipWith gfAdd xs ys)) s = .next v ∧
      v.codewords = List.zipWith gfAdd t.codewords u.codewords

/-- R125 (c), (d), (e): leading zero bytes change nothing; a single byte d leaves gf_mul(G[j], d) in cell j;
for n = 1 the remainder is the XOR of all data bytes. -/
def Obligations.RemainderSpecialCases : Prop :=
  ∀ s : State, s.Inv → s.fault = false → 1 ≤ s.deg.toNat → s.remainderClear →
    (∀ (k : Nat) (data : List Byte), ∃ t,
      performAll (feedWords (List.replicate k 0x00#8 ++ data)) s = .next t ∧
        performAll (feedWords data) s = .next t) ∧
    (∀ d : Byte, ∃ t, performAll (feedWords [d]) s = .next t ∧
      ∀ j, j < s.deg.toNat → cell t.r j = gfMul (cell s.g j) d) ∧
    (s.deg.toNat = 1 → ∀ data : List Byte, ∃ t, performAll (feedWords data) s = .next t ∧
      cell t.r 0 = data.foldl gfAdd 0x00#8)

/-- R68, R124, R125 (a): an RSBLOCK, run from any unfaulted state with a generator (whatever R holds), reads
n correction codewords that complete the data to a codeword; it leaves the block ready for the next RSBLOCK. -/
def Obligations.RsblockReadsTheCodewords : Prop :=
  ∀ (s : State) (data : List Byte), s.Inv → s.fault = false → 1 ≤ s.deg.toNat →
    ∃ (o : Observation) (t : State),
      observe ((rsBlock s.deg data).map encode) s = .next o ∧
      performAll ((rsBlock s.deg data).map encode) s = .next t ∧
      o.fault = false ∧ o.results.length = 1 + data.length + s.deg.toNat ∧
      (∀ i, i < s.deg.toNat →
        Poly.eval (alphaPow i)
          (Poly.ofHighFirst (data ++ o.results.drop (1 + data.length))) = 0x00#8) ∧
      t = { s with r := t.r, result := t.result } ∧ t.Inv

/-! ### Faults -/

/-- R160: a command that faults changes FAULT and CAUSE and nothing else, records a cause from 1 to 4, and
still completes with `done`, the `fault` port going to 1. -/
def Obligations.FaultEntryIsPrecise : Prop :=
  ∀ (w : Word) (s t : State), s.fault = false → perform w s = .next t → t.fault = true →
    t = { s with fault := true, cause := t.cause } ∧ 1 ≤ t.cause.toNat ∧ t.cause.toNat ≤ 4 ∧
      ∃ u, finish w s = .next u ∧ u = { t with phase := .idle, done := true, rstN := true } ∧
        outputs u = ⟨true, true, s.result, true⟩

/-- R150, R152 to R155, R158: which words fault outside the fault state, with which code, in which order; and
that no other word faults. -/
def Obligations.FaultCausesFollowTheTable : Prop :=
  ∀ (w : Word) (s : State), s.fault = false →
    ((∃ why, decode w = .illegal why) →
      perform w s = .next { s with fault := true, cause := 1#3 }) ∧
    (∀ i, decode w = .instr i → needsGenerator i = true → s.deg.toNat = 0 →
      perform w s = .next { s with fault := true, cause := 2#3 }) ∧
    (∀ n, decode w = .instr (.genpoly n) → n.toNat = 0 ∨ s.nmax.toNat < n.toNat →
      perform w s = .next { s with fault := true, cause := 3#3 }) ∧
    (∀ i, decode w = .instr (.readrem i) ∨ decode w = .instr (.readgen i) → s.deg.toNat ≠ 0 →
      s.deg.toNat ≤ i.toNat → perform w s = .next { s with fault := true, cause := 4#3 }) ∧
    (∀ sel, decode w = .instr (.readstat sel) → 2 < sel.toNat →
      perform w s = .next { s with fault := true, cause := 4#3 }) ∧
    ((∃ i, decode w = .instr i ∧ (needsGenerator i = true → s.deg.toNat ≠ 0) ∧
        (∀ n, i = .genpoly n → 1 ≤ n.toNat ∧ n.toNat ≤ s.nmax.toNat) ∧
        (∀ j, i = .readrem j ∨ i = .readgen j → j.toNat < s.deg.toNat) ∧
        (∀ sel, i = .readstat sel → sel.toNat ≤ 2)) →
      ∃ t, perform w s = .next t ∧ t.fault = false ∧ t.cause = s.cause)

/-- R162: in the fault state READSTAT with selector 0, 1 or 2 writes RESULT and nothing else, every other
word changes nothing, and each of them completes with `done`. -/
def Obligations.FaultStatePerformsOnlyReadstat : Prop :=
  ∀ s : State, s.fault = true →
    (∀ sel : Byte, sel.toNat ≤ 2 →
      perform (encode (.readstat sel)) s = .next { s with result := statusValue sel s }) ∧
    (∀ w : Word, (∀ sel, decode w = .instr (.readstat sel) → 2 < sel.toNat) →
      perform w s = .next s) ∧
    (∀ w : Word, ∃ t, finish w s = .next t ∧ t.done = true ∧ t.phase = .idle ∧
      t.fault = true ∧ t.cause = s.cause)

/-- R165, R25: a step from the fault state stays in it with the same cause, unless the step is the host's
reset, which returns every register to its reset value. That the host's actions are a list in State, that a reset
in it acts at an idle block as the list's head (a word in flight completes first), and that the later actions stay,
are the model's choices (log entries 2, 3 and 6). -/
def Obligations.OnlyResetLeavesTheFaultState : Prop :=
  ∀ s t : State, s.fault = true → step s = .next t →
    (t.fault = true ∧ t.cause = s.cause) ∨
      (s.phase = .idle ∧ ∃ rest, s.host = .reset :: rest ∧
        t = { State.resetWith s.nmax with host := rest })

/-- R141: after a sequence of words from an unfaulted state, FAULT = 0 means that every word of it left FAULT
0; FAULT = 1 means that one word faulted first, CAUSE is its cause, and DEG, G and R are those it was given.
READSTAT 0 shows the bit and the cause. -/
def Obligations.StatusNamesTheFirstFault : Prop :=
  ∀ (ws : List Word) (s t : State), s.fault = false → performAll ws s = .next t →
    (t.fault = false → ∀ pre post, ws = pre ++ post →
      ∃ u, performAll pre s = .next u ∧ u.fault = false) ∧
    (t.fault = true → ∃ pre w post u, ws = pre ++ w :: post ∧ performAll pre s = .next u ∧
      u.fault = false ∧ perform w u = .next { u with fault := true, cause := t.cause } ∧
      t.deg = u.deg ∧ t.g = u.g ∧ t.r = u.r) ∧
    ∃ u, perform (encode (.readstat 0#8)) t = .next u ∧ u.result.getLsbD 7 = t.fault ∧
      u.result.extractLsb' 3 3 = t.cause

/-! ### Frames, completion and the step -/

/-- R30: what each command may write; everything else is unchanged. A faulting command writes FAULT and CAUSE
only, an ignored one nothing, and FEED only the cells below DEG. -/
def Obligations.CommandsWriteOnlyTheirRegisters : Prop :=
  ∀ (i : Instr) (s t : State), exec i s = .next t →
    (t.nmax = s.nmax ∧ t.phase = s.phase ∧ t.rstN = s.rstN ∧ t.done = s.done ∧ t.host = s.host) ∧
    ((∀ n, i ≠ .genpoly n) → t.deg = s.deg ∧ t.g = s.g) ∧
    ((∀ n, i ≠ .genpoly n) → (∀ d, i ≠ .feed d) → i ≠ .clear → t.r = s.r) ∧
    (∀ d, i = .feed d → s.wellSized → s.deg.toNat ≤ s.nmax.toNat →
      t.r.length = s.r.length ∧ ∀ j, s.deg.toNat ≤ j → cell t.r j = cell s.r j) ∧
    ((∀ a b, i ≠ .gfmul a b) → (∀ j, i ≠ .readrem j) → (∀ j, i ≠ .readgen j) →
      (∀ sel, i ≠ .readstat sel) → t.result = s.result) ∧
    (t.fault ≠ s.fault ∨ t.cause ≠ s.cause →
      s.fault = false ∧ t = { s with fault := true, cause := t.cause }) ∧
    (s.fault = true → (∀ sel, i ≠ .readstat sel) → t = s)

/-- R24: the `result` port shows RESULT, and no word but an unfaulted GFMUL, READREM or READGEN, or a READSTAT
with a legal selector, changes it. -/
def Obligations.ResultHasFourWriters : Prop :=
  ∀ (w : Word) (s t : State), perform w s = .next t →
    (outputs t).result = t.result ∧
    (t.result = s.result ∨
      (s.fault = false ∧ t.fault = false ∧
        ((∃ a b, decode w = .instr (.gfmul a b)) ∨ (∃ i, decode w = .instr (.readrem i)) ∨
          (∃ i, decode w = .instr (.readgen i)))) ∨
      ∃ sel, decode w = .instr (.readstat sel) ∧ sel.toNat ≤ 2)

/-- R10: the step is total: every state has a next state, so nothing stops the block. -/
def Obligations.EveryStateHasANextState : Prop :=
  (∀ s : State, ∃ t, step s = .next t) ∧
    ∀ (lat : Latencies) (p : Pins) (s : State), ∃ t, clockEdge lat p s = .next t

/-- R10, R38, R65: with the block idle and a word offered, a step is exec of the decoded command on the state
without that offer, completed by the handshake; a word that is no command takes ILLEGAL_CMD, or is ignored in
the fault state; and `withFetchWord` offers a word so. That the host's actions are a list in State, and that
`cmd_ready` being 0 right after reset only delays the offer, are the model's (log entries 2 and 3). -/
def Obligations.StepRunsTheDecodedCommand : Prop :=
  (∀ (s t : State) (w : Word) (rest : List HostAction) (i : Instr),
    s.phase = .idle → s.host = .issue w :: rest → decode w = .instr i →
    exec i { s with host := rest } = .next t →
    step s = .next { t with phase := .idle, done := true, rstN := true }) ∧
  (∀ (s : State) (w : Word) (rest : List HostAction) (why : Illegal),
    s.phase = .idle → s.host = .issue w :: rest → decode w = .illegal why →
    step s = .next { s with
      host := rest
      phase := .idle
      done := true
      rstN := true
      fault := true
      cause := if s.fault then s.cause else 1#3 }) ∧
  ∀ (s : State) (nbits w : Nat), (s.withFetchWord nbits w).phase = .idle ∧
    (s.withFetchWord nbits w).host = .issue (BitVec.ofNat 32 (w % 2 ^ nbits)) :: s.host

/-- R169, R180: with no command offered an idle block holds every register; a reset by the host returns
every register to its reset value. The list of host actions, and that a reset keeps the later ones, are the
model's (log entries 2 and 6). -/
def Obligations.IdleBlockHoldsItsState : Prop :=
  (∀ s : State, s.phase = .idle → s.host = [] →
    step s = .next { s with done := false, rstN := true }) ∧
  ∀ (s : State) (rest : List HostAction), s.phase = .idle → s.host = .reset :: rest →
    step s = .next { State.resetWith s.nmax with host := rest }

/-- R47: steps take the host's words in order, each after the one before it has completed: the run of the
machine over queued words is `performAll` of them. The queue is the model's (log entry 2). -/
def Obligations.QueuedWordsRunInOrder : Prop :=
  ∀ (ws : List Word) (s t : State) (rest : List HostAction), ws ≠ [] → s.phase = .idle →
    performAll ws { s with host := rest } = .next t →
    core.run ws.length { s with host := ws.map .issue ++ rest } =
      .next { t with phase := .idle, done := true, rstN := true }

/-! ### The handshake -/

/-- R38, R190, R192, R193: for every legal choice of latencies, offering a word to an idle block (one edge
longer when `cmd_ready` is still 0), then clocking it through the word's latency with anything on the command
pins, ends in exactly the state of one command step. That the step takes the word from a list of host actions in
State, and that the offer waits one edge while `cmd_ready` is still 0 after a reset edge, are the model's (log
entries 2 and 3); so are the latency of an illegal word and which latency a faulting word takes (log entry 5). -/
def Obligations.HandshakeRefinesTheStep : Prop :=
  ∀ (lat : Latencies) (w : Word) (s : State) (busy : List Pins) (rest : List HostAction),
    lat.legal → s.phase = .idle → busy.length = latency lat w s →
    (∀ p ∈ busy, p.rstN = true) →
    clockEdges lat ((if s.rstN then [] else [offer w]) ++ offer w :: busy) { s with host := rest } =
      step { s with host := .issue w :: rest }

/-- R32, R190, R191: an edge before a command's completion changes nothing but the handshake, whatever the
host drives on the command pins; the ports show the older RESULT and FAULT (U11 would allow any value; the model's
reading is log entry 8). -/
def Obligations.BusyEdgesHideTheCommand : Prop :=
  ∀ (lat : Latencies) (p : Pins) (s : State) (w : Word) (left : Nat),
    p.rstN = true → s.phase = .busy w left → 2 ≤ left →
    clockEdge lat p s =
        .next { s with phase := .busy w (left - 1), done := false, rstN := true } ∧
      outputs { s with phase := .busy w (left - 1), done := false, rstN := true } =
        ⟨false, false, s.result, s.fault⟩

/-- R36, R38: after any edge, `done` is 1 exactly when that edge completed a command, `cmd_ready` is 1 exactly
when the phase is IDLE and `rst_n = 1` was sampled, and a command is in flight that was not before exactly when
the edge accepted the offered word. Its count is `latency` of that word: the value for an illegal word, for a
faulting one and for FEED's degree is the model's choice (log entry 5). -/
def Obligations.PortsFollowTheHandshake : Prop :=
  ∀ (lat : Latencies) (p : Pins) (s t : State), clockEdge lat p s = .next t →
    (t.done = true ↔ p.rstN = true ∧ ∃ w left, s.phase = .busy w left ∧ left ≤ 1) ∧
    ((outputs t).cmdReady = true ↔ t.phase = .idle ∧ p.rstN = true) ∧
    (s.phase = .idle → ((∃ w left, t.phase = .busy w left) ↔
      p.rstN = true ∧ p.cmdValid = true ∧ (outputs s).cmdReady = true)) ∧
    (s.phase = .idle → ∀ w left, t.phase = .busy w left →
      w = p.cmdWord ∧ left = latency lat w s)

/-! ### What cannot be observed -/

/-- R46: the reads and GFMUL are idempotent: done twice, they leave the state of doing them once. -/
def Obligations.ReadsAreIdempotent : Prop :=
  ∀ (i : Instr) (s t : State),
    (∃ a b, i = .gfmul a b) ∨ (∃ j, i = .readrem j) ∨ (∃ j, i = .readgen j) ∨
      (∃ sel, i = .readstat sel) →
    exec i s = .next t → exec i t = .next t

/-- R186: after a GENPOLY that does not fault, nothing of the earlier G, R or DEG can be observed by any
later words. -/
def Obligations.NothingLeaksBetweenSymbols : Prop :=
  ∀ (n : Byte) (ws : List Word) (s t : State), 1 ≤ n.toNat → n.toNat ≤ s.nmax.toNat →
    s.nmax = t.nmax → s.result = t.result → s.fault = false → t.fault = false →
    s.cause = t.cause →
    observe (encode (.genpoly n) :: ws) s = observe (encode (.genpoly n) :: ws) t

/-- R35, R41 (and U9, U10): no sequence of words tells apart two states that differ only in cells of G and R
at DEG and above; while DEG = 0 that is all of G and R. -/
def Obligations.CellsAboveDegreeAreUnobservable : Prop :=
  ∀ (ws : List Word) (s t : State), s.wellSized → t.wellSized → s.deg.toNat ≤ s.nmax.toNat →
    s.sameActive t → observe ws s = observe ws t

/-- R50: a command to one instance leaves every other instance as it was, and its own as `perform` says. -/
def Obligations.InstancesShareNoState : Prop :=
  ∀ (k : Nat) (w : Word) (bank bank' : List State), performAt k w bank = .next bank' →
    bank'.length = bank.length ∧ (∀ j, j ≠ k → bank'[j]? = bank[j]?) ∧
      ∀ s, bank[k]? = some s → ∃ t, perform w s = .next t ∧ bank'[k]? = some t

/-! ### The assembler -/

/-- R67: every command's own source line assembles to that command, and a line with a wrong operand count or
an operand above 255 is refused. -/
def Obligations.AssemblerTakesEveryCommand : Prop :=
  (∀ (i : Instr) (lastN : Option Byte), expandLine lastN i.source = some [i]) ∧
    ∀ (l : SourceLine) (lastN : Option Byte),
      l.countOk = false ∨ (∃ v ∈ l.operands, 255 < v) → expandLine lastN l = none

/-- R68: the expansions of the pseudo-instructions; RSBLOCK takes n from the last GENPOLY and is refused
without one; an RSSYMBOL line followed by its RSBLOCK lines is GENPOLY and one RSBLOCK per block (that RSSYMBOL
stands on a line of its own is the model's reading, log entry 9). -/
def Obligations.PseudoInstructionsExpand : Prop :=
  (∀ lastN, expandLine lastN ⟨.rdstatus, []⟩ = some [.readstat 0#8] ∧
    expandLine lastN ⟨.rddeg, []⟩ = some [.readstat 1#8] ∧
    expandLine lastN ⟨.rdnmax, []⟩ = some [.readstat 2#8]) ∧
  (∀ (n : Byte) (data : List Byte),
    expandLine (some n) ⟨.rsblock, data.map BitVec.toNat⟩ =
      some (.clear :: data.map .feed ++
        (List.range n.toNat).map (fun i => .readrem (BitVec.ofNat 8 i)))) ∧
  (∀ data : List Nat, expandLine none ⟨.rsblock, data⟩ = none) ∧
  (∀ (lastN : Option Byte) (n : Byte) (blocks : List (List Byte)),
    assemble lastN
        (⟨.rssymbol, [n.toNat]⟩ :: blocks.map (fun b => ⟨.rsblock, b.map BitVec.toNat⟩)) =
      some (.genpoly n :: blocks.flatMap (fun b => .clear :: b.map .feed ++
        (List.range n.toNat).map (fun i => .readrem (BitVec.ofNat 8 i)))))
end

