-- ==== Sys2Proof/Laws/State.lean ====
section
/-! SUPPORT. One lemma per field per update of State, so that no later proof unfolds a record update. -/

namespace Sys2Proof.Machine

open Sys2Proof

@[simp] theorem setResult_nmax (v : Byte) (s : State) : (setResult v s).nmax = s.nmax := rfl
@[simp] theorem setResult_deg (v : Byte) (s : State) : (setResult v s).deg = s.deg := rfl
@[simp] theorem setResult_g (v : Byte) (s : State) : (setResult v s).g = s.g := rfl
@[simp] theorem setResult_r (v : Byte) (s : State) : (setResult v s).r = s.r := rfl
@[simp] theorem setResult_result (v : Byte) (s : State) : (setResult v s).result = v := rfl
@[simp] theorem setResult_fault (v : Byte) (s : State) : (setResult v s).fault = s.fault := rfl
@[simp] theorem setResult_cause (v : Byte) (s : State) : (setResult v s).cause = s.cause := rfl
@[simp] theorem setResult_phase (v : Byte) (s : State) : (setResult v s).phase = s.phase := rfl
@[simp] theorem setResult_rstN (v : Byte) (s : State) : (setResult v s).rstN = s.rstN := rfl
@[simp] theorem setResult_done (v : Byte) (s : State) : (setResult v s).done = s.done := rfl
@[simp] theorem setResult_host (v : Byte) (s : State) : (setResult v s).host = s.host := rfl

@[simp] theorem takeFault_nmax (c : Cause) (s : State) : (takeFault c s).nmax = s.nmax := rfl
@[simp] theorem takeFault_deg (c : Cause) (s : State) : (takeFault c s).deg = s.deg := rfl
@[simp] theorem takeFault_g (c : Cause) (s : State) : (takeFault c s).g = s.g := rfl
@[simp] theorem takeFault_r (c : Cause) (s : State) : (takeFault c s).r = s.r := rfl
@[simp] theorem takeFault_result (c : Cause) (s : State) : (takeFault c s).result = s.result := rfl
@[simp] theorem takeFault_fault (c : Cause) (s : State) : (takeFault c s).fault = true := rfl
@[simp] theorem takeFault_cause (c : Cause) (s : State) : (takeFault c s).cause = c.code := rfl
@[simp] theorem takeFault_phase (c : Cause) (s : State) : (takeFault c s).phase = s.phase := rfl
@[simp] theorem takeFault_rstN (c : Cause) (s : State) : (takeFault c s).rstN = s.rstN := rfl
@[simp] theorem takeFault_done (c : Cause) (s : State) : (takeFault c s).done = s.done := rfl
@[simp] theorem takeFault_host (c : Cause) (s : State) : (takeFault c s).host = s.host := rfl

@[simp] theorem completed_nmax (s : State) : (completed s).nmax = s.nmax := rfl
@[simp] theorem completed_deg (s : State) : (completed s).deg = s.deg := rfl
@[simp] theorem completed_g (s : State) : (completed s).g = s.g := rfl
@[simp] theorem completed_r (s : State) : (completed s).r = s.r := rfl
@[simp] theorem completed_result (s : State) : (completed s).result = s.result := rfl
@[simp] theorem completed_fault (s : State) : (completed s).fault = s.fault := rfl
@[simp] theorem completed_cause (s : State) : (completed s).cause = s.cause := rfl
@[simp] theorem completed_phase (s : State) : (completed s).phase = .idle := rfl
@[simp] theorem completed_rstN (s : State) : (completed s).rstN = true := rfl
@[simp] theorem completed_done (s : State) : (completed s).done = true := rfl
@[simp] theorem completed_host (s : State) : (completed s).host = s.host := rfl

@[simp] theorem quietEdge_nmax (s : State) : (quietEdge s).nmax = s.nmax := rfl
@[simp] theorem quietEdge_deg (s : State) : (quietEdge s).deg = s.deg := rfl
@[simp] theorem quietEdge_g (s : State) : (quietEdge s).g = s.g := rfl
@[simp] theorem quietEdge_r (s : State) : (quietEdge s).r = s.r := rfl
@[simp] theorem quietEdge_result (s : State) : (quietEdge s).result = s.result := rfl
@[simp] theorem quietEdge_fault (s : State) : (quietEdge s).fault = s.fault := rfl
@[simp] theorem quietEdge_cause (s : State) : (quietEdge s).cause = s.cause := rfl
@[simp] theorem quietEdge_phase (s : State) : (quietEdge s).phase = s.phase := rfl
@[simp] theorem quietEdge_rstN (s : State) : (quietEdge s).rstN = true := rfl
@[simp] theorem quietEdge_done (s : State) : (quietEdge s).done = false := rfl
@[simp] theorem quietEdge_host (s : State) : (quietEdge s).host = s.host := rfl

@[simp] theorem resetEdge_nmax (s : State) : (resetEdge s).nmax = s.nmax := rfl
@[simp] theorem resetEdge_deg (s : State) : (resetEdge s).deg = 0#8 := rfl
@[simp] theorem resetEdge_g (s : State) : (resetEdge s).g = zeroCells s.nmax.toNat := rfl
@[simp] theorem resetEdge_r (s : State) : (resetEdge s).r = zeroCells s.nmax.toNat := rfl
@[simp] theorem resetEdge_result (s : State) : (resetEdge s).result = 0#8 := rfl
@[simp] theorem resetEdge_fault (s : State) : (resetEdge s).fault = false := rfl
@[simp] theorem resetEdge_cause (s : State) : (resetEdge s).cause = 0#3 := rfl
@[simp] theorem resetEdge_phase (s : State) : (resetEdge s).phase = .idle := rfl
@[simp] theorem resetEdge_rstN (s : State) : (resetEdge s).rstN = false := rfl
@[simp] theorem resetEdge_done (s : State) : (resetEdge s).done = false := rfl
@[simp] theorem resetEdge_host (s : State) : (resetEdge s).host = s.host := rfl

@[simp] theorem buildGenerator_nmax (n : Byte) (s : State) : (buildGenerator n s).nmax = s.nmax := rfl
@[simp] theorem buildGenerator_deg (n : Byte) (s : State) : (buildGenerator n s).deg = n := rfl
@[simp] theorem buildGenerator_g (n : Byte) (s : State) :
    (buildGenerator n s).g = generatorCells n.toNat ++ zeroCells (s.nmax.toNat - n.toNat) := rfl
@[simp] theorem buildGenerator_r (n : Byte) (s : State) :
    (buildGenerator n s).r = zeroCells s.nmax.toNat := rfl
@[simp] theorem buildGenerator_result (n : Byte) (s : State) : (buildGenerator n s).result = s.result := rfl
@[simp] theorem buildGenerator_fault (n : Byte) (s : State) : (buildGenerator n s).fault = s.fault := rfl
@[simp] theorem buildGenerator_cause (n : Byte) (s : State) : (buildGenerator n s).cause = s.cause := rfl
@[simp] theorem buildGenerator_phase (n : Byte) (s : State) : (buildGenerator n s).phase = s.phase := rfl
@[simp] theorem buildGenerator_rstN (n : Byte) (s : State) : (buildGenerator n s).rstN = s.rstN := rfl
@[simp] theorem buildGenerator_done (n : Byte) (s : State) : (buildGenerator n s).done = s.done := rfl
@[simp] theorem buildGenerator_host (n : Byte) (s : State) : (buildGenerator n s).host = s.host := rfl

@[simp] theorem offerNext_nmax (w : Word) (s : State) : (offerNext w s).nmax = s.nmax := rfl
@[simp] theorem offerNext_deg (w : Word) (s : State) : (offerNext w s).deg = s.deg := rfl
@[simp] theorem offerNext_g (w : Word) (s : State) : (offerNext w s).g = s.g := rfl
@[simp] theorem offerNext_r (w : Word) (s : State) : (offerNext w s).r = s.r := rfl
@[simp] theorem offerNext_result (w : Word) (s : State) : (offerNext w s).result = s.result := rfl
@[simp] theorem offerNext_fault (w : Word) (s : State) : (offerNext w s).fault = s.fault := rfl
@[simp] theorem offerNext_cause (w : Word) (s : State) : (offerNext w s).cause = s.cause := rfl
@[simp] theorem offerNext_phase (w : Word) (s : State) : (offerNext w s).phase = .idle := rfl
@[simp] theorem offerNext_rstN (w : Word) (s : State) : (offerNext w s).rstN = s.rstN := rfl
@[simp] theorem offerNext_done (w : Word) (s : State) : (offerNext w s).done = s.done := rfl
@[simp] theorem offerNext_host (w : Word) (s : State) : (offerNext w s).host = .issue w :: s.host := rfl

/-- The handshake of a completed state says a command has just completed. -/
@[simp] theorem outputs_completed (s : State) :
    outputs (completed s) = ⟨true, true, s.result, s.fault⟩ := by simp [outputs, cmdReady]

/-- Completing twice is completing once. -/
@[simp] theorem completed_completed (s : State) : completed (completed s) = completed s := rfl

end Sys2Proof.Machine
end

