-- ==== Sys2Proof/Laws/Ops.lean ====
section
/-! SUPPORT. For each shared operation, what it can do: the lengths and cells of the register-file
operations, and what the checks of a command can end in. -/

namespace Sys2Proof.Machine

open Sys2Proof

/-! ### Register files -/

@[simp] theorem cell_nil (j : Nat) : cell [] j = 0#8 := rfl

@[simp] theorem cell_cons_zero (x : Byte) (xs : List Byte) : cell (x :: xs) 0 = x := rfl

@[simp] theorem cell_cons_succ (x : Byte) (xs : List Byte) (j : Nat) :
    cell (x :: xs) (j + 1) = cell xs j := rfl

/-- A file past its last cell reads 0. -/
theorem cell_of_length_le {file : List Byte} {j : Nat} (h : file.length ≤ j) : cell file j = 0#8 := by
  simp [cell, h]

/-- Two files with equally many cells, equal cell by cell, are equal. -/
theorem cells_ext {a b : List Byte} (hl : a.length = b.length) (h : ∀ j, cell a j = cell b j) :
    a = b := by
  apply List.ext_getElem hl
  intro j ha hb
  simpa [cell, List.getD_eq_getElem, ha, hb] using h j

@[simp] theorem zeroCells_length (n : Nat) : (zeroCells n).length = n := by simp [zeroCells]

@[simp] theorem cell_zeroCells (n j : Nat) : cell (zeroCells n) j = 0#8 := by
  simp only [cell, zeroCells, List.getD_eq_getElem?_getD, List.getElem?_replicate]
  split <;> rfl

theorem cell_append_left {a b : List Byte} {j : Nat} (h : j < a.length) :
    cell (a ++ b) j = cell a j := by
  exact List.getD_append _ _ _ _ h

theorem cell_append_right {a b : List Byte} {j : Nat} (h : a.length ≤ j) :
    cell (a ++ b) j = cell b (j - a.length) := by
  exact List.getD_append_right _ _ _ _ h

theorem cell_take {file : List Byte} {n j : Nat} (h : j < n) : cell (file.take n) j = cell file j := by
  simp [cell, List.getD_eq_getElem?_getD, h]

@[simp] theorem cell_drop (file : List Byte) (n j : Nat) :
    cell (file.drop n) j = cell file (n + j) := by
  simp [cell, List.getD_eq_getElem?_getD]

/-- `shift_in` keeps the number of cells. -/
theorem shiftIn_length {n : Nat} {r : List Byte} (h1 : 1 ≤ n) (h2 : n ≤ r.length) :
    (shiftIn n r).length = r.length := by
  simp [shiftIn]; omega

/-- The last loop of FEED keeps the number of cells. -/
theorem addScaled_length {n : Nat} {factor : Byte} {g r : List Byte} (hg : n ≤ g.length)
    (hr : n ≤ r.length) : (addScaled n factor g r).length = r.length := by
  simp [addScaled]; omega

/-- FEED keeps the number of cells of `R`. -/
theorem feedCells_length {n : Nat} {d : Byte} {g r : List Byte} (h1 : 1 ≤ n) (hg : n ≤ g.length)
    (hr : n ≤ r.length) : (feedCells n d g r).length = r.length := by
  have hs := shiftIn_length h1 hr
  rw [feedCells, addScaled_length hg (by omega), hs]

/-- The inner loop of GENPOLY keeps the number of cells. -/
@[simp] theorem mulByRoot_length (root : Byte) (t : List Byte) :
    (mulByRoot root t).length = t.length := by
  induction t with
  | nil => rfl
  | cons x xs ih =>
    cases xs with
    | nil => rfl
    | cons y ys => simp only [mulByRoot, List.length_cons] at ih ⊢; omega

/-- The outer loop of GENPOLY keeps the number of cells. -/
@[simp] theorem mulByRoots_length (k : Nat) (root : Byte) (t : List Byte) :
    (mulByRoots k root t).length = t.length := by
  induction k generalizing root t with
  | zero => rfl
  | succ k ih => simp [mulByRoots, ih]

/-- GENPOLY n makes n cells. -/
theorem generatorCells_length {n : Nat} (h : 1 ≤ n) : (generatorCells n).length = n := by
  simp [generatorCells]; omega

/-! ### What a check can end in -/

/-- An unfaulted state runs the command; a faulted one ignores it (R162). -/
theorem unlessFaulted_cases {s t : State} {command : Result}
    (h : unlessFaulted s command = .next t) :
    (s.fault = true ∧ t = s) ∨ (s.fault = false ∧ command = .next t) := by
  unfold unlessFaulted at h
  split at h
  · rename_i hf; exact .inl ⟨hf, by injection h with h; exact h.symm⟩
  · rename_i hf; exact .inr ⟨by simpa using hf, h⟩

/-- A command that needs a generator faults without one, and runs with one (R152). -/
theorem needGenerator_cases {s t : State} {command : Result}
    (h : needGenerator s command = .next t) :
    (s.deg = 0#8 ∧ t = takeFault .noGenerator s) ∨ (s.deg ≠ 0#8 ∧ command = .next t) := by
  unfold needGenerator raise at h
  split at h
  · rename_i hd; exact .inl ⟨hd, by injection h with h; exact h.symm⟩
  · rename_i hd; exact .inr ⟨hd, h⟩

/-- A read faults in one of two ways or writes RESULT (R103, R124). -/
theorem readCell_cases {file : List Byte} {i : Byte} {s t : State}
    (h : readCell file i s = .next t) :
    (s.deg = 0#8 ∧ t = takeFault .noGenerator s) ∨
      (s.deg ≠ 0#8 ∧ s.deg.toNat ≤ i.toNat ∧ t = takeFault .badIndex s) ∨
      (i.toNat < s.deg.toNat ∧ t = setResult (cell file i.toNat) s) := by
  rcases needGenerator_cases h with h | ⟨hd, h⟩
  · exact .inl h
  · unfold raise at h
    split at h
    · rename_i hi
      exact .inr (.inr ⟨by simpa [indexLegal] using hi, by injection h with h; exact h.symm⟩)
    · rename_i hi
      exact .inr (.inl ⟨hd, by simpa [indexLegal] using hi, by injection h with h; exact h.symm⟩)

end Sys2Proof.Machine
end

