-- ==== Sys2Proof/Laws/Exec.lean ====
section
/-! SUPPORT. What one command can do, said once: `Effect i s t` lists the ways `exec i s` can answer `t`, and
the inversion lemmas of `exec`, `perform`, `finish` and `step` lead to it. -/

namespace Sys2Proof.Machine

open Sys2Proof

/-- The ways a command can change a state (R30, R160, R162). -/
inductive Effect : Instr → State → State → Prop
  | ignored (i : Instr) (s : State) : s.fault = true → (∀ sel, i ≠ .readstat sel ∨ 2 < sel.toNat) →
      Effect i s s
  | noGenerator (i : Instr) (s : State) : s.fault = false → needsGenerator i = true → s.deg = 0#8 →
      Effect i s (takeFault .noGenerator s)
  | badDegree (n : Byte) (s : State) : s.fault = false → degreeLegal n s = false →
      Effect (.genpoly n) s (takeFault .badDegree s)
  | badCell (i : Byte) (j : Instr) (s : State) : s.fault = false → j = .readrem i ∨ j = .readgen i →
      s.deg ≠ 0#8 → s.deg.toNat ≤ i.toNat → Effect j s (takeFault .badIndex s)
  | badSelector (sel : Byte) (s : State) : s.fault = false → 2 < sel.toNat →
      Effect (.readstat sel) s (takeFault .badIndex s)
  | gfmul (a b : Byte) (s : State) : s.fault = false →
      Effect (.gfmul a b) s (setResult (gfMul a b) s)
  | genpoly (n : Byte) (s : State) : s.fault = false → degreeLegal n s = true →
      Effect (.genpoly n) s (buildGenerator n s)
  | clear (s : State) : s.fault = false →
      Effect .clear s { s with r := zeroCells s.nmax.toNat }
  | feed (d : Byte) (s : State) : s.fault = false → s.deg ≠ 0#8 →
      Effect (.feed d) s { s with r := feedCells s.deg.toNat d s.g s.r }
  | readrem (i : Byte) (s : State) : s.fault = false → i.toNat < s.deg.toNat →
      Effect (.readrem i) s (setResult (cell s.r i.toNat) s)
  | readgen (i : Byte) (s : State) : s.fault = false → i.toNat < s.deg.toNat →
      Effect (.readgen i) s (setResult (cell s.g i.toNat) s)
  | readstat (sel : Byte) (s : State) : sel.toNat ≤ 2 →
      Effect (.readstat sel) s (setResult (statusValue sel s) s)

/-- Inversion of `exec`: a next state is one of the effects. -/
theorem exec_cases {i : Instr} {s t : State} (h : exec i s = .next t) : Effect i s t := by
  cases i with
  | gfmul a b =>
    rcases unlessFaulted_cases h with ⟨hf, rfl⟩ | ⟨hf, h⟩
    · exact .ignored _ _ hf (by simp)
    · injection h with h; subst h; exact .gfmul a b s hf
  | genpoly n =>
    rcases unlessFaulted_cases h with ⟨hf, rfl⟩ | ⟨hf, h⟩
    · exact .ignored _ _ hf (by simp)
    · split at h
      · injection h with h; subst h; exact .genpoly n s hf ‹_›
      · injection h with h; subst h; exact .badDegree n s hf (Bool.eq_false_iff.mpr ‹_›)
  | clear =>
    rcases unlessFaulted_cases h with ⟨hf, rfl⟩ | ⟨hf, h⟩
    · exact .ignored _ _ hf (by simp)
    · injection h with h; subst h; exact .clear s hf
  | feed d =>
    rcases unlessFaulted_cases h with ⟨hf, rfl⟩ | ⟨hf, h⟩
    · exact .ignored _ _ hf (by simp)
    · rcases needGenerator_cases h with ⟨hd, rfl⟩ | ⟨hd, h⟩
      · exact .noGenerator _ _ hf rfl hd
      · injection h with h; subst h; exact .feed d s hf hd
  | readrem i =>
    rcases unlessFaulted_cases h with ⟨hf, rfl⟩ | ⟨hf, h⟩
    · exact .ignored _ _ hf (by simp)
    · rcases readCell_cases h with ⟨hd, rfl⟩ | ⟨hd, hi, rfl⟩ | ⟨hi, rfl⟩
      · exact .noGenerator _ _ hf rfl hd
      · exact .badCell i _ s hf (.inl rfl) hd hi
      · exact .readrem i s hf hi
  | readgen i =>
    rcases unlessFaulted_cases h with ⟨hf, rfl⟩ | ⟨hf, h⟩
    · exact .ignored _ _ hf (by simp)
    · rcases readCell_cases h with ⟨hd, rfl⟩ | ⟨hd, hi, rfl⟩ | ⟨hi, rfl⟩
      · exact .noGenerator _ _ hf rfl hd
      · exact .badCell i _ s hf (.inr rfl) hd hi
      · exact .readgen i s hf hi
  | readstat sel =>
    change execReadstat sel s = _ at h
    unfold execReadstat at h
    split at h
    · rename_i hs
      injection h with h; subst h
      exact .readstat sel s (by simpa [selectorLegal] using hs)
    · rename_i hs
      have hs : 2 < sel.toNat := by simpa [selectorLegal] using hs
      rcases unlessFaulted_cases h with ⟨hf, rfl⟩ | ⟨hf, h⟩
      · refine .ignored _ _ hf (fun sel' => ?_)
        by_cases he : sel' = sel
        · exact .inr (he ▸ hs)
        · exact .inl (by simpa using fun h => he h.symm)
      · injection h with h; subst h; exact .badSelector sel s hf hs

/-- Inversion of `perform`: an effect of the decoded command, or what an illegal word does (R151, R162). -/
theorem perform_cases {w : Word} {s t : State} (h : perform w s = .next t) :
    (∃ i, decode w = .instr i ∧ Effect i s t) ∨
      (∃ why, decode w = .illegal why ∧
        ((s.fault = true ∧ t = s) ∨ (s.fault = false ∧ t = takeFault .illegalCmd s))) := by
  unfold perform at h
  split at h
  · rename_i i hi; exact .inl ⟨i, hi, exec_cases h⟩
  · rename_i why hw
    refine .inr ⟨why, hw, ?_⟩
    rcases unlessFaulted_cases h with h | ⟨hf, h⟩
    · exact .inl h
    · injection h with h; exact .inr ⟨hf, h.symm⟩

/-- Inversion of `finish`: a performed word, completed. -/
theorem finish_cases {w : Word} {s t : State} (h : finish w s = .next t) :
    ∃ u, perform w s = .next u ∧ t = completed u := by
  unfold finish at h
  split at h
  · rename_i u hu; injection h with h; exact ⟨u, hu, h.symm⟩
  · cases h
  · cases h

/-- Inversion of `step`: a word completes, or the host is idle, or the host resets the block. -/
theorem step_cases {s t : State} (h : step s = .next t) :
    (∃ w left u, s.phase = .busy w left ∧ perform w s = .next u ∧ t = completed u) ∨
      (s.phase = .idle ∧ s.host = [] ∧ t = quietEdge s) ∨
      (∃ rest, s.phase = .idle ∧ s.host = .reset :: rest ∧
        t = resetEdge { s with host := rest }) ∨
      (∃ w rest u, s.phase = .idle ∧ s.host = .issue w :: rest ∧
        perform w { s with host := rest } = .next u ∧ t = completed u) := by
  unfold step at h
  split at h
  · rename_i w left hp
    obtain ⟨u, hu, rfl⟩ := finish_cases h
    exact .inl ⟨w, left, u, hp, hu, rfl⟩
  · rename_i hp
    unfold hostAction at h
    split at h
    · rename_i hh; injection h with h; exact .inr (.inl ⟨hp, hh, h.symm⟩)
    · rename_i rest hh; injection h with h; exact .inr (.inr (.inl ⟨rest, hp, hh, h.symm⟩))
    · rename_i w rest hh
      obtain ⟨u, hu, rfl⟩ := finish_cases h
      exact .inr (.inr (.inr ⟨w, rest, u, hp, hh, hu, rfl⟩))

/-- Inversion of a clock edge: reset, completion, counting down, acceptance, or nothing. -/
theorem clockEdge_cases {lat : Latencies} {p : Pins} {s t : State}
    (h : clockEdge lat p s = .next t) :
    (p.rstN = false ∧ t = resetEdge s) ∨
      (p.rstN = true ∧ ∃ w left u, s.phase = .busy w left ∧ left ≤ 1 ∧
        perform w s = .next u ∧ t = completed u) ∨
      (p.rstN = true ∧ ∃ w left, s.phase = .busy w left ∧ 2 ≤ left ∧
        t = { quietEdge s with phase := .busy w (left - 1) }) ∨
      (p.rstN = true ∧ s.phase = .idle ∧ p.cmdValid = true ∧ cmdReady s = true ∧
        t = { quietEdge s with phase := .busy p.cmdWord (latency lat p.cmdWord s) }) ∨
      (p.rstN = true ∧ s.phase = .idle ∧ (p.cmdValid = false ∨ cmdReady s = false) ∧
        t = quietEdge s) := by
  unfold clockEdge at h
  split at h
  · rename_i hr
    refine .inr ?_
    split at h
    · rename_i w left hp
      split at h
      · rename_i hl
        obtain ⟨u, hu, rfl⟩ := finish_cases h
        exact .inl ⟨hr, w, left, u, hp, hl, hu, rfl⟩
      · rename_i hl
        injection h with h
        exact .inr (.inl ⟨hr, w, left, hp, by omega, h.symm⟩)
    · rename_i hp
      split at h
      · rename_i hv
        injection h with h
        exact .inr (.inr (.inl ⟨hr, hp, hv.1, hv.2, h.symm⟩))
      · rename_i hv
        injection h with h
        refine .inr (.inr (.inr ⟨hr, hp, ?_, h.symm⟩))
        cases hc : p.cmdValid with
        | false => exact .inl rfl
        | true => exact .inr (by simpa [hc] using hv)
  · rename_i hr
    injection h with h
    exact .inl ⟨by simpa using hr, h.symm⟩

end Sys2Proof.Machine
end

