-- ==== Sys2Proof/Laws/Handshake.lean ====
section
/-! SUPPORT. Commands neither read nor write the handshake or the host's actions: relabelling those fields
before a command is relabelling them after it. -/

namespace Sys2Proof.Machine

open Sys2Proof

/-- The state with its handshake fields and host actions replaced. -/
def relabel (p : Phase) (r d : Bool) (h : List HostAction) (s : State) : State :=
  { s with phase := p, rstN := r, done := d, host := h }

/-- A result with its next state changed by a function. -/
def mapNext (f : State → State) : Result → Result
  | .next t => .next (f t)
  | .fault x => .fault x
  | .refused x => .refused x

@[simp] theorem mapNext_next (f : State → State) (t : State) :
    mapNext f (.next t) = .next (f t) := rfl

theorem mapNext_ite {c : Prop} [Decidable c] (f : State → State) (a b : Result) :
    mapNext f (if c then a else b) = if c then mapNext f a else mapNext f b := by split <;> rfl

/-- `exec` passes the handshake fields through. -/
theorem exec_relabel (i : Instr) (p : Phase) (r d : Bool) (h : List HostAction) (s : State) :
    exec i (relabel p r d h s) = mapNext (relabel p r d h) (exec i s) := by
  cases i <;>
    simp only [exec, execGfmul, execGenpoly, execClear, execFeed, execReadrem, execReadgen,
      execReadstat, unlessFaulted, needGenerator, readCell, raise, mapNext_ite, mapNext_next] <;> rfl

/-- `perform` passes the handshake fields through. -/
theorem perform_relabel (w : Word) (p : Phase) (r d : Bool) (h : List HostAction) (s : State) :
    perform w (relabel p r d h s) = mapNext (relabel p r d h) (perform w s) := by
  unfold perform
  split
  · exact exec_relabel ..
  · simp only [unlessFaulted, raise, mapNext_ite, mapNext_next]; rfl

/-- A command's effect leaves the handshake fields, the host's actions and NMAX as they are. -/
theorem Effect.handshake {i : Instr} {s t : State} (h : Effect i s t) :
    t.phase = s.phase ∧ t.rstN = s.rstN ∧ t.done = s.done ∧ t.host = s.host ∧ t.nmax = s.nmax := by
  cases h <;> simp

/-- So does a performed word. -/
theorem perform_handshake {w : Word} {s t : State} (h : perform w s = .next t) :
    t.phase = s.phase ∧ t.rstN = s.rstN ∧ t.done = s.done ∧ t.host = s.host ∧ t.nmax = s.nmax := by
  rcases perform_cases h with ⟨i, -, h⟩ | ⟨_, -, ⟨-, rfl⟩ | ⟨-, rfl⟩⟩
  · exact h.handshake
  · simp
  · simp

/-- Completing a word ends in the same state whatever the handshake fields were. -/
theorem finish_relabel (w : Word) (p : Phase) (r d : Bool) (s : State) :
    finish w (relabel p r d s.host s) = finish w s := by
  unfold finish
  rw [perform_relabel]
  cases h : perform w s with
  | next t => simp [relabel, completed, (perform_handshake h).2.2.2.1]
  | fault f => rfl
  | refused x => rfl

end Sys2Proof.Machine
end

