-- ==== Sys2Proof/Laws/PerInstr.lean ====
section
/-! SUPPORT. Statements made per command: every command is well formed, because its operands are bytes (R61,
R67). -/

namespace Sys2Proof.Laws.WellFormed

open Sys2Proof

/-- The command's source line passes the assembler's checks (R67). -/
def Statement (i : Instr) : Prop := i.wellFormed = true

/-- A byte is an operand from 0 to 255. -/
theorem byte_le (a : Byte) : a.toNat ≤ 255 := by have := a.isLt; omega

theorem gfmul (a b : Byte) : Statement (.gfmul a b) := by
  simp [Statement, Instr.wellFormed, Instr.source, SourceLine.wellFormed, SourceLine.countOk,
    SourceLine.rangeOk, Mnemonic.arity, byte_le]

theorem genpoly (n : Byte) : Statement (.genpoly n) := by
  simp [Statement, Instr.wellFormed, Instr.source, SourceLine.wellFormed, SourceLine.countOk,
    SourceLine.rangeOk, Mnemonic.arity, byte_le]

theorem clear : Statement .clear := rfl

theorem feed (d : Byte) : Statement (.feed d) := by
  simp [Statement, Instr.wellFormed, Instr.source, SourceLine.wellFormed, SourceLine.countOk,
    SourceLine.rangeOk, Mnemonic.arity, byte_le]

theorem readrem (i : Byte) : Statement (.readrem i) := by
  simp [Statement, Instr.wellFormed, Instr.source, SourceLine.wellFormed, SourceLine.countOk,
    SourceLine.rangeOk, Mnemonic.arity, byte_le]

theorem readgen (i : Byte) : Statement (.readgen i) := by
  simp [Statement, Instr.wellFormed, Instr.source, SourceLine.wellFormed, SourceLine.countOk,
    SourceLine.rangeOk, Mnemonic.arity, byte_le]

theorem readstat (sel : Byte) : Statement (.readstat sel) := by
  simp [Statement, Instr.wellFormed, Instr.source, SourceLine.wellFormed, SourceLine.countOk,
    SourceLine.rangeOk, Mnemonic.arity, byte_le]

end Sys2Proof.Laws.WellFormed
end

