-- ==== Sys2Proof/Tests/Slice0.lean ====
section
/-! SUPPORT. The model's own tests. Expected values come from spec/ (95_test_vectors.md, or the worked examples of
the rules); each `witness_` theorem shows that the hypotheses of a statement are met together. -/

namespace Sys2Proof.Tests

open Sys2Proof Sys2Proof.Machine

/-! ### The assembler's checks refuse an ill-formed line (R67) -/

theorem test_wrong_operand_count_refused : (⟨.gfmul, [1]⟩ : SourceLine).countOk = false := by decide
theorem test_operand_above_255_refused : (⟨.feed, [256]⟩ : SourceLine).rangeOk = false := by decide
theorem test_ill_formed_lines_refused :
    [(⟨.gfmul, [1]⟩ : SourceLine), ⟨.feed, [256]⟩, ⟨.clear, [0]⟩, ⟨.rsblock, [1, 256]⟩].all
      (fun l => !l.wellFormed) = true := by decide
theorem test_run_time_range_is_no_check :
    [(⟨.genpoly, [0]⟩ : SourceLine), ⟨.readrem, [40]⟩].all (·.wellFormed) = true := by decide

/-! ### Decoding, each word written from the layout of R60: OPC, RSV, A, B -/

theorem test_decode_gfmul :
    decode 0b00000001_00000000_01010011_11001010#32 = .instr (.gfmul 0x53#8 0xCA#8) := by decide
theorem test_decode_genpoly :
    decode 0b00000010_00000000_00000000_00010110#32 = .instr (.genpoly 22#8) := by decide
theorem test_decode_clear : decode 0b00000011_00000000_00000000_00000000#32 = .instr .clear := by decide
theorem test_decode_feed :
    decode 0b00000100_00000000_00000000_11101100#32 = .instr (.feed 0xEC#8) := by decide
theorem test_decode_readrem :
    decode 0b00000101_00000000_00000000_00010101#32 = .instr (.readrem 21#8) := by decide
theorem test_decode_readgen :
    decode 0b00000110_00000000_00000000_11111111#32 = .instr (.readgen 255#8) := by decide
theorem test_decode_readstat :
    decode 0b00000111_00000000_00000000_00000010#32 = .instr (.readstat 2#8) := by decide
theorem test_decode_rejects_by_name :
    [0x01FF0000#32, 0x08000000#32, 0x02001600#32, 0x030000FF#32, 0x00000000#32].map decode =
      [.illegal .reservedField, .illegal .opcode, .illegal .operandA, .illegal .operandB,
       .illegal .opcode] := by decide
theorem test_table_word : decodeTableWord 32 0x010053CA = some (.gfmul 0x53#8 0xCA#8) := by decide

/-! ### One command each -/

/-- A block with NMAX = 4 after GENPOLY 2 and FEED 0x12 (R101, R122 worked examples). -/
def small : State :=
  { State.resetWith 4#8 with
    deg := 2#8, g := [0x03#8, 0x02#8, 0#8, 0#8], r := [0x36#8, 0x24#8, 0#8, 0#8] }

/-- The same block before the FEED. -/
def smallClear : State := { small with r := [0#8, 0#8, 0#8, 0#8] }

/-- The same block in the fault state, after a BAD_INDEX. -/
def smallFaulted : State := { small with fault := true, cause := 4#3 }

/-- RESULT, FAULT and CAUSE after a command. -/
def seen : Result → Option (Byte × Bool × BitVec 3)
  | .next t => some (t.result, t.fault, t.cause)
  | .fault _ => none
  | .refused _ => none

/-- The register files and DEG after a command. -/
def files : Result → Option (Byte × List Byte × List Byte)
  | .next t => some (t.deg, t.g, t.r)
  | .fault _ => none
  | .refused _ => none

-- T-DER-MUL-7, T-DER-MUL-13
theorem test_gfmul_general : seen (exec (.gfmul 0x53#8 0xCA#8) small) = some (0x8F#8, false, 0#3) := by decide
theorem test_gfmul_square : seen (exec (.gfmul 0xB7#8 0xB7#8) State.reset) = some (0x6F#8, false, 0#3) := by decide
-- P6 (NMAX = 4), and T-DER-GEN-15
theorem test_genpoly_replaces : files (exec (.genpoly 4#8) small) =
    some (4#8, [0x0F#8, 0x36#8, 0x78#8, 0x40#8], [0#8, 0#8, 0#8, 0#8]) := by decide +kernel
theorem test_genpoly_above_nmax : exec (.genpoly 5#8) small =
    .next { small with fault := true, cause := 3#3 } := rfl
-- R121
theorem test_clear : files (exec .clear small) = some (2#8, small.g, smallClear.r) := by decide
-- T-RS-2, T-DER-FEED-6
theorem test_feed_second_byte : files (exec (.feed 0x34#8) small) =
    some (2#8, small.g, [0x22#8, 0x04#8, 0#8, 0#8]) := by decide
theorem test_feed_zero_factor_shifts : files (exec (.feed 0x36#8) small) =
    some (2#8, small.g, [0x24#8, 0x00#8, 0#8, 0#8]) := by decide
-- R124, T-DER-FEED-11b
theorem test_readrem_last_cell : seen (exec (.readrem 1#8) small) = some (0x24#8, false, 0#3) := by decide
theorem test_readrem_no_generator_first :
    seen (exec (.readrem 40#8) State.reset) = some (0#8, true, 2#3) := by decide
-- T-DER-GEN-2, T-DER-GEN-11
theorem test_readgen_first_cell : seen (exec (.readgen 0#8) small) = some (0x03#8, false, 0#3) := by decide
theorem test_readgen_at_degree : seen (exec (.readgen 2#8) small) = some (0#8, true, 4#3) := by decide
-- T-DER-ST-8 (with DEG not 0), T-DER-ST-11
theorem test_readstat_after_fault :
    seen (exec (.readstat 0#8) smallFaulted) = some (0xE0#8, true, 4#3) := by decide
theorem test_readstat_bad_selector_ignored : exec (.readstat 3#8) smallFaulted = .next smallFaulted := rfl
-- T-DER-MUL-14, and R162 for an illegal word
theorem test_illegal_word : seen (perform 0x01010203#32 small) = some (0#8, true, 1#3) := by decide
theorem test_illegal_word_ignored : perform 0x01010203#32 smallFaulted = .next smallFaulted := rfl
-- The degree-7 generator of the standard, R104 row 7
theorem test_generator_seven : generatorCells 7 =
    [0x7F#8, 0x7A#8, 0x9A#8, 0xA4#8, 0x0B#8, 0x44#8, 0x75#8] := by decide +kernel
-- The largest generator, R104 row 30
theorem test_generator_thirty : (generatorCells 30).take 4 = [0xD4#8, 0xF6#8, 0x4D#8, 0x49#8] := by
  decide +kernel

/-! ### The step, the handshake and the assembler -/

theorem test_step_runs_fetched_word :
    seen (step (State.reset.withFetchWord 32 0x010053CA)) = some (0x8F#8, false, 0#3) := by decide
theorem test_feed_first_after_reset :
    seen (step (State.reset.withFetchWord 32 0x04000012)) = some (0#8, true, 2#3) := by decide

/-- Latencies for the tests: two edges for a read, one for anything else. -/
def lat : Latencies := ⟨1, fun _ => 1, 1, fun _ => 1, 2, 1, 1⟩

/-- The output pins after a run of edges. -/
def pinsAfter (ps : List Pins) (s : State) : Option Outputs :=
  match clockEdges lat ps s with
  | .next t => some (outputs t)
  | .fault _ => none
  | .refused _ => none

/-- An edge with nothing offered. -/
def quiet : Pins := ⟨true, false, 0#32⟩

/-- A block that has sampled `rst_n = 1`, so that it is ready. -/
def ready : State := { small with rstN := true }

theorem test_busy_port_shows_old_result :
    pinsAfter [offer 0x05000000#32, quiet] ready = some ⟨false, false, 0#8, false⟩ := by decide
theorem test_done_with_result :
    pinsAfter [offer 0x05000000#32, quiet, quiet] ready = some ⟨true, true, 0x36#8, false⟩ := by decide
theorem test_reset_discards_command :
    pinsAfter [offer 0x05000000#32, quiet, ⟨false, false, 0#32⟩] ready =
      some ⟨false, false, 0#8, false⟩ := by decide
theorem test_not_ready_right_after_reset :
    pinsAfter [offer 0x01000203#32] State.reset = some ⟨true, false, 0#8, false⟩ := by decide

theorem test_assemble_text :
    assembleText "GFMUL 0x53, 0xCA ; comment\nGENPOLY 3\n  RSBLOCK 1, 0x02\nRDSTATUS" =
      some [0x010053CA#32, 0x02000003#32, 0x03000000#32, 0x04000001#32, 0x04000002#32,
        0x05000000#32, 0x05000001#32, 0x05000002#32, 0x07000000#32] := by decide +kernel
theorem test_rsblock_without_genpoly_refused : assembleText "RSBLOCK 1" = none := by decide +kernel

/-! ### Witnesses: the hypotheses of the statements are met -/

/-- Cells of a four-cell file with only its first two not zero. -/
theorem cell_of_two (a b : Byte) (j : Nat) (h : 2 ≤ j) : cell [a, b, 0#8, 0#8] j = 0#8 := by
  match j, h with
  | 2, _ => rfl
  | 3, _ => rfl
  | n + 4, _ => rfl

theorem witness_small_inv : small.Inv where
  sized := ⟨by decide, rfl, rfl⟩
  degLe := by decide
  restZero := fun j h => ⟨cell_of_two _ _ j h, cell_of_two _ _ j h⟩
  noCause := fun _ => rfl
  aCause := fun h => by cases h
  generator := fun _ => by decide +kernel

theorem witness_clear_inv : smallClear.Inv where
  sized := ⟨by decide, rfl, rfl⟩
  degLe := by decide
  restZero := fun j h => ⟨cell_zeroCells 4 j, cell_of_two _ _ j h⟩
  noCause := fun _ => rfl
  aCause := fun h => by cases h
  generator := fun _ => by decide +kernel

theorem witness_faulted_inv : smallFaulted.Inv where
  sized := ⟨by decide, rfl, rfl⟩
  degLe := by decide
  restZero := fun j h => ⟨cell_of_two _ _ j h, cell_of_two _ _ j h⟩
  noCause := fun h => by cases h
  aCause := fun _ => by decide
  generator := fun _ => by decide +kernel

/-- ResetEdgeResetsAnyState: pins of the two edges. -/
theorem witness_reset_edge : ∃ p q : Pins, p.rstN = false ∧ q.rstN = true :=
  ⟨⟨false, true, 0#32⟩, quiet, rfl, rfl⟩

/-- ResetSatisfiesTheInvariants: the least and the largest NMAX. -/
theorem witness_reset_invariants : 1 ≤ (1#8 : Byte).toNat ∧ 1 ≤ (255#8 : Byte).toNat := by decide

/-- StepKeepsTheInvariants: a FEED from a state with a generator. -/
theorem witness_step_invariants : ∃ s t : State, s.Inv ∧ step s = .next t ∧ t.r ≠ s.r := by
  refine ⟨{ small with host := [.issue 0x04000034#32] }, _, ?_, rfl, by decide⟩
  exact ⟨witness_small_inv.1, witness_small_inv.2, witness_small_inv.3, witness_small_inv.4,
    witness_small_inv.5, witness_small_inv.6⟩

/-- ClockEdgeKeepsTheInvariants: an accepting edge. -/
theorem witness_edge_invariants : ∃ (p : Pins) (s t : State), s.Inv ∧ clockEdge lat p s = .next t :=
  ⟨offer 0x03000000#32, small, _, witness_small_inv, rfl⟩

/-- EncodeInvertsDecode: a word that decodes. -/
theorem witness_decodes : decode 0x040000EC#32 = .instr (.feed 0xEC#8) := by decide

/-- IllegalWordsRaiseIllegalCmd and the illegal clauses of the commands: an illegal word of each class, and
an unfaulted state. -/
theorem witness_illegal : small.fault = false ∧
    [0x00000000#32, 0x08000000#32, 0xFF000000#32, 0x01010000#32, 0x02000100#32, 0x03000001#32].all
      (fun w => (decode w).instr?.isNone) = true := by decide

/-- The words of the illegal clauses: each command's opcode with a bit set in a field that must be 0. -/
theorem witness_illegal_fields :
    (0x01010000#32 : Word).extractLsb' 24 8 = 0x01#8 ∧ (0x01010000#32 : Word).extractLsb' 16 8 ≠ 0#8 ∧
    (0x02000100#32 : Word).extractLsb' 24 8 = 0x02#8 ∧ (0x02000100#32 : Word).extractLsb' 8 8 ≠ 0#8 ∧
    (0x03000001#32 : Word).extractLsb' 24 8 = 0x03#8 ∧ (0x03000001#32 : Word).extractLsb' 0 8 ≠ 0#8 ∧
    (0x04FF0000#32 : Word).extractLsb' 24 8 = 0x04#8 ∧ (0x04FF0000#32 : Word).extractLsb' 16 8 ≠ 0#8 ∧
    (0x05000100#32 : Word).extractLsb' 24 8 = 0x05#8 ∧ (0x05000100#32 : Word).extractLsb' 8 8 ≠ 0#8 ∧
    (0x06010000#32 : Word).extractLsb' 24 8 = 0x06#8 ∧ (0x06010000#32 : Word).extractLsb' 16 8 ≠ 0#8 ∧
    (0x0700FF00#32 : Word).extractLsb' 24 8 = 0x07#8 ∧ (0x0700FF00#32 : Word).extractLsb' 8 8 ≠ 0#8 := by
  decide

/-- The encoding clauses: a word of each row with its largest operands. -/
theorem witness_rows :
    (0x0100FFFF#32 : Word) &&& 0xFFFF0000#32 = 0x01000000#32 ∧
    (0x020000FF#32 : Word) &&& 0xFFFFFF00#32 = 0x02000000#32 ∧
    (0x040000FF#32 : Word) &&& 0xFFFFFF00#32 = 0x04000000#32 ∧
    (0x050000FF#32 : Word) &&& 0xFFFFFF00#32 = 0x05000000#32 ∧
    (0x060000FF#32 : Word) &&& 0xFFFFFF00#32 = 0x06000000#32 ∧
    (0x070000FF#32 : Word) &&& 0xFFFFFF00#32 = 0x07000000#32 := by decide

/-- CarrylessProductConvolvesBits: the lowest and the highest bit. -/
theorem witness_product_bits : 0 < 15 ∧ 14 < 15 := by decide

/-- AlphaIsPrimitive: two exponents below 255. -/
theorem witness_alpha : 0 < 255 ∧ 254 < 255 ∧ alphaPow 0 = alphaPow 0 := by decide

/-- FieldProductLaws: a nonzero byte, and a zero product. -/
theorem witness_field : (0x53#8 : Byte) ≠ 0x00#8 ∧ gfMul 0x00#8 0x53#8 = 0x00#8 := by decide

/-- GeneratorHasExactlyItsRoots: the least and the largest degree. -/
theorem witness_degrees : (1 ≤ 1 ∧ 1 ≤ 255) ∧ (1 ≤ 255 ∧ 255 ≤ 255) := by decide

/-- GFMUL, CLEAR and every other command: the unfaulted state and the faulted one. -/
theorem witness_fault_bit : small.fault = false ∧ smallFaulted.fault = true := by decide

/-- GENPOLY's clauses at their edges: 0 and NMAX + 1 are refused, 1, 2 and NMAX are taken. -/
theorem witness_genpoly_edges : small.fault = false ∧
    ((0#8 : Byte).toNat = 0 ∨ small.nmax.toNat < (0#8 : Byte).toNat) ∧
    ((5#8 : Byte).toNat = 0 ∨ small.nmax.toNat < (5#8 : Byte).toNat) ∧
    (1 ≤ (1#8 : Byte).toNat ∧ (1#8 : Byte).toNat ≤ small.nmax.toNat) ∧
    (1 ≤ (2#8 : Byte).toNat ∧ (2#8 : Byte).toNat ≤ small.nmax.toNat) ∧
    (1 ≤ (4#8 : Byte).toNat ∧ (4#8 : Byte).toNat ≤ small.nmax.toNat) := by decide

/-- The reads' clauses at their edges: DEG = 0, index DEG - 1, DEG and 255. -/
theorem witness_read_edges : State.reset.fault = false ∧ State.reset.deg.toNat = 0 ∧
    small.fault = false ∧ small.deg.toNat ≠ 0 ∧ (1#8 : Byte).toNat < small.deg.toNat ∧
    small.deg.toNat ≤ (2#8 : Byte).toNat ∧ small.deg.toNat ≤ (255#8 : Byte).toNat := by decide

/-- READSTAT's clauses at their edges: selectors 2 and 3, in and out of the fault state. -/
theorem witness_selectors : (2#8 : Byte).toNat ≤ 2 ∧ 2 < (3#8 : Byte).toNat ∧ small.fault = false ∧
    smallFaulted.fault = true := by decide

/-- ShiftInDropsFirstSetsLast: a part of a file, and a whole one. -/
theorem witness_shift : (1 ≤ 2 ∧ 2 ≤ small.r.length) ∧ (1 ≤ 4 ∧ 4 ≤ small.r.length) := by decide

/-- A block with NMAX = 1 and the generator x + 1 (R122, n = 1). -/
def one : State := { State.resetWith 1#8 with deg := 1#8, g := [0x01#8] }

/-- FeedDividesOneStep: its premises, for d = R[0] and for n = 1 too. -/
theorem witness_feed : small.wellSized ∧ small.fault = false ∧ 1 ≤ small.deg.toNat ∧
    small.deg.toNat ≤ small.nmax.toNat ∧ 0x36#8 = cell small.r 0 ∧
    one.wellSized ∧ one.deg.toNat = 1 ∧ cell one.g 0 = 0x01#8 := by
  refine ⟨⟨?_, rfl, rfl⟩, ?_, ?_, ?_, ?_, ⟨?_, rfl, rfl⟩, ?_, ?_⟩ <;> decide

/-- The remainder statements: a clear register under a generator, two data blocks of one length. -/
theorem witness_remainder : smallClear.Inv ∧ smallClear.fault = false ∧ 1 ≤ smallClear.deg.toNat ∧
    smallClear.remainderClear ∧ [0x12#8, 0x34#8].length = [0x56#8, 0x78#8].length :=
  ⟨witness_clear_inv, rfl, by decide, fun j _ => cell_zeroCells 4 j, rfl⟩

/-- RemainderSpecialCases, n = 1. -/
theorem witness_remainder_one : one.Inv ∧ one.fault = false ∧ one.deg.toNat = 1 ∧
    one.remainderClear := by
  refine ⟨⟨⟨by decide, rfl, rfl⟩, by decide, ?_, fun _ => rfl, fun h => (by cases h), fun _ => by decide⟩,
    rfl, rfl, fun j _ => cell_zeroCells 1 j⟩
  intro j h
  match j, h with
  | n + 1, _ => exact ⟨cell_zeroCells 1 (n + 1), rfl⟩

/-- RsblockReadsTheCodewords: a state whose R holds another block's remainder. -/
theorem witness_rsblock : small.Inv ∧ small.fault = false ∧ 1 ≤ small.deg.toNat :=
  ⟨witness_small_inv, rfl, by decide⟩

/-- FaultEntryIsPrecise: a command that faults. -/
theorem witness_fault_entry : ∃ t, small.fault = false ∧ perform 0x05000002#32 small = .next t ∧
    t.fault = true := ⟨_, rfl, rfl, rfl⟩

/-- FaultCausesFollowTheTable: a word of each clause, each in an unfaulted state. -/
theorem witness_causes :
    decode 0x00000000#32 = .illegal .opcode ∧
    (decode 0x04000012#32 = .instr (.feed 0x12#8) ∧ needsGenerator (.feed 0x12#8) = true ∧
      State.reset.deg.toNat = 0 ∧ State.reset.fault = false) ∧
    (decode 0x02000005#32 = .instr (.genpoly 5#8) ∧ small.nmax.toNat < (5#8 : Byte).toNat) ∧
    (decode 0x05000002#32 = .instr (.readrem 2#8) ∧ small.deg.toNat ≠ 0 ∧
      small.deg.toNat ≤ (2#8 : Byte).toNat) ∧
    (decode 0x07000003#32 = .instr (.readstat 3#8) ∧ 2 < (3#8 : Byte).toNat) ∧
    (decode 0x05000001#32 = .instr (.readrem 1#8) ∧ (1#8 : Byte).toNat < small.deg.toNat) := by decide

/-- FaultStatePerformsOnlyReadstat: a word that is not performed there, and a selector that is. -/
theorem witness_fault_state : smallFaulted.fault = true ∧ (2#8 : Byte).toNat ≤ 2 ∧
    ∀ sel, decode 0x03000000#32 = .instr (.readstat sel) → 2 < sel.toNat :=
  ⟨rfl, by decide, fun sel h => by rw [show decode 0x03000000#32 = .instr .clear by decide] at h; cases h⟩

/-- OnlyResetLeavesTheFaultState: a step of each kind from the fault state. -/
theorem witness_leave_fault : ∃ t u, smallFaulted.fault = true ∧
    step { smallFaulted with host := [.issue 0x03000000#32] } = .next t ∧
    step { smallFaulted with host := [.reset] } = .next u := ⟨_, _, rfl, rfl, rfl⟩

/-- StatusNamesTheFirstFault: a sequence without a fault, and one with. -/
theorem witness_first_fault : ∃ t u, small.fault = false ∧
    performAll [0x05000000#32, 0x05000001#32] small = .next t ∧ t.fault = false ∧
    performAll [0x05000000#32, 0x05000002#32, 0x03000000#32] small = .next u ∧ u.fault = true :=
  ⟨_, _, rfl, rfl, rfl, rfl, rfl⟩

/-- CommandsWriteOnlyTheirRegisters and ResultHasFourWriters: a command with a next state. -/
theorem witness_frame : ∃ t, exec (.feed 0x12#8) small = .next t ∧
    perform 0x04000012#32 small = .next t ∧ t.r ≠ small.r := ⟨_, rfl, rfl, by decide⟩

/-- CommandsWriteOnlyTheirRegisters, the fault clause: a command that changes FAULT. -/
theorem witness_frame_fault : ∃ t, exec (.readrem 2#8) small = .next t ∧
    t.fault ≠ small.fault := ⟨_, rfl, by decide⟩

/-- StepRunsTheDecodedCommand: an idle block with a command offered, and one with an illegal word. -/
theorem witness_step_runs : ∃ t, small.phase = .idle ∧ decode 0x04000012#32 = .instr (.feed 0x12#8) ∧
    exec (.feed 0x12#8) { small with host := [] } = .next t ∧
    decode 0xFFFFFFFF#32 = .illegal .reservedField := ⟨_, rfl, by decide, rfl, by decide⟩

/-- IdleBlockHoldsItsState: an idle host, and a host that resets. -/
theorem witness_idle : small.phase = .idle ∧ small.host = [] ∧
    ({ small with host := [.reset] } : State).host = .reset :: [] := by decide

/-- QueuedWordsRunInOrder: two words queued before a third action. -/
theorem witness_queue : ∃ t, [0x04000034#32, 0x05000000#32] ≠ [] ∧ small.phase = .idle ∧
    performAll [0x04000034#32, 0x05000000#32] { small with host := [.reset] } = .next t :=
  ⟨_, by decide, rfl, rfl⟩

/-- HandshakeRefinesTheStep: a read of latency 2, from a ready block and from one just reset. -/
theorem witness_handshake : lat.legal ∧ ready.phase = .idle ∧ ready.rstN = true ∧
    [quiet, quiet].length = latency lat 0x05000000#32 ready ∧ (∀ p ∈ [quiet, quiet], p.rstN = true) ∧
    State.reset.phase = .idle ∧ State.reset.rstN = false ∧
    [quiet, quiet].length = latency lat 0x05000000#32 State.reset := by
  refine ⟨⟨le_refl 1, fun _ => le_refl 1, le_refl 1, fun _ => le_refl 1, by decide, le_refl 1, le_refl 1⟩,
    ?_, ?_, ?_, ?_, ?_, ?_, ?_⟩ <;> decide

/-- BusyEdgesHideTheCommand: a command with two edges left. -/
theorem witness_busy : quiet.rstN = true ∧
    ({ ready with phase := .busy 0x05000000#32 2 } : State).phase = .busy 0x05000000#32 2 ∧ 2 ≤ 2 := by
  decide

/-- PortsFollowTheHandshake: an accepting, a completing and a reset edge. -/
theorem witness_ports : ∃ t u v, clockEdge lat (offer 0x03000000#32) ready = .next t ∧
    clockEdge lat quiet { ready with phase := .busy 0x03000000#32 1 } = .next u ∧
    clockEdge lat ⟨false, false, 0#32⟩ ready = .next v := ⟨_, _, _, rfl, rfl, rfl⟩

/-- ReadsAreIdempotent: a read with a next state, and one that faults. -/
theorem witness_idempotent : ∃ t u, exec (.readrem 1#8) small = .next t ∧
    exec (.readgen 2#8) small = .next u := ⟨_, _, rfl, rfl⟩

/-- NothingLeaksBetweenSymbols: two blocks that differ in DEG, G and R. -/
theorem witness_no_leak : 1 ≤ (4#8 : Byte).toNat ∧ (4#8 : Byte).toNat ≤ small.nmax.toNat ∧
    small.nmax = (State.resetWith 4#8).nmax ∧ small.result = (State.resetWith 4#8).result ∧
    small.fault = false ∧ (State.resetWith 4#8).fault = false ∧
    small.cause = (State.resetWith 4#8).cause ∧ small.g ≠ (State.resetWith 4#8).g := by decide

/-- CellsAboveDegreeAreUnobservable: two blocks that differ in cells at DEG and above. -/
theorem witness_hidden_cells :
    ∃ t : State, small.wellSized ∧ t.wellSized ∧ small.deg.toNat ≤ small.nmax.toNat ∧
      small.sameActive t ∧ t.r ≠ small.r :=
  ⟨{ small with r := [0x36#8, 0x24#8, 7#8, 0#8] }, ⟨by decide, rfl, rfl⟩, ⟨by decide, rfl, rfl⟩,
    by decide, ⟨rfl, rfl, rfl⟩, by decide⟩

/-- InstancesShareNoState: a bank of two. -/
theorem witness_bank : ∃ bank', performAt 1 0x04000034#32 [State.reset, small] = .next bank' ∧
    [State.reset, small][1]? = some small := ⟨_, rfl, rfl⟩

/-- AssemblerTakesEveryCommand: a line refused for its count, and one for its range. -/
theorem witness_refused_lines : (⟨.clear, [1]⟩ : SourceLine).countOk = false ∧
    ∃ v ∈ (⟨.feed, [256]⟩ : SourceLine).operands, 255 < v := ⟨by decide, 256, by decide, by decide⟩

/-- ClearEmptiesTheShiftRegister: its clauses about a second CLEAR and a CLEAR after GENPOLY. -/
theorem witness_clear : ∃ t u, exec .clear small = .next t ∧ exec (.genpoly 4#8) small = .next u ∧
    u.fault = false := ⟨_, _, rfl, rfl, rfl⟩

end Sys2Proof.Tests
end

section
/-! PROOFS. The scope statements (R10, R38, R65): every operation of the block answers with a next state, so
the step and the clock edge are total; and the equations of `perform`, `finish` and `step` for one word. -/

namespace Sys2Proof.Machine

open Sys2Proof

/-! ### Every operation answers with a next state -/

/-- A choice between two answers is an answer. -/
theorem ite_exists_next {c : Prop} [Decidable c] {a b : Result} (ha : ∃ t, a = .next t)
    (hb : ∃ t, b = .next t) : ∃ t, (if c then a else b) = .next t := by
  split
  · exact ha
  · exact hb

/-- A fault of the block is a next state (R160). -/
theorem raise_exists_next (c : Cause) (s : State) : ∃ t, raise c s = .next t := ⟨_, rfl⟩

/-- Ignoring a command in the fault state is a next state (R162). -/
theorem unlessFaulted_exists_next {s : State} {command : Result} (h : ∃ t, command = .next t) :
    ∃ t, unlessFaulted s command = .next t := ite_exists_next ⟨s, rfl⟩ h

theorem needGenerator_exists_next {s : State} {command : Result} (h : ∃ t, command = .next t) :
    ∃ t, needGenerator s command = .next t := ite_exists_next (raise_exists_next _ s) h

theorem readCell_exists_next (file : List Byte) (i : Byte) (s : State) :
    ∃ t, readCell file i s = .next t :=
  needGenerator_exists_next (ite_exists_next ⟨_, rfl⟩ (raise_exists_next _ s))

/-- Every command has a next state from every state (R10). -/
theorem exec_exists_next (i : Instr) (s : State) : ∃ t, exec i s = .next t := by
  cases i with
  | gfmul a b => exact unlessFaulted_exists_next ⟨_, rfl⟩
  | genpoly n => exact unlessFaulted_exists_next (ite_exists_next ⟨_, rfl⟩ (raise_exists_next _ s))
  | clear => exact unlessFaulted_exists_next ⟨_, rfl⟩
  | feed d => exact unlessFaulted_exists_next (needGenerator_exists_next ⟨_, rfl⟩)
  | readrem j => exact unlessFaulted_exists_next (readCell_exists_next s.r j s)
  | readgen j => exact unlessFaulted_exists_next (readCell_exists_next s.g j s)
  | readstat sel =>
    exact ite_exists_next ⟨_, rfl⟩ (unlessFaulted_exists_next (raise_exists_next _ s))

/-! ### What one word does -/

/-- A word that is a command performs that command (R65). -/
theorem perform_of_instr {w : Word} {i : Instr} (h : decode w = .instr i) (s : State) :
    perform w s = exec i s := by simp only [perform, h]

/-- An illegal word sets FAULT with cause ILLEGAL_CMD, and the first cause stays (R151, R162). -/
theorem perform_of_illegal {w : Word} {why : Illegal} (h : decode w = .illegal why) (s : State) :
    perform w s =
      .next { s with fault := true, cause := if s.fault then s.cause else 1#3 } := by
  simp only [perform, h, unlessFaulted]
  split
  case isTrue hf => rw [← hf]
  case isFalse => rfl

/-- Every word has a next state from every state, legal or not (R10, R65). -/
theorem perform_exists_next (w : Word) (s : State) : ∃ t, perform w s = .next t := by
  cases h : decode w with
  | instr i => exact perform_of_instr h s ▸ exec_exists_next i s
  | illegal why => exact ⟨_, perform_of_illegal h s⟩

/-- A performed word completes with the handshake's changes alone (R38, R190). -/
theorem finish_of_perform {w : Word} {s t : State} (h : perform w s = .next t) :
    finish w s = .next (completed t) := by simp only [finish, h]

theorem finish_exists_next (w : Word) (s : State) : ∃ t, finish w s = .next t :=
  have ⟨t, ht⟩ := perform_exists_next w s
  ⟨completed t, finish_of_perform ht⟩

/-! ### The step and the clock edge -/

theorem step_of_busy {s : State} {w : Word} {left : Nat} (hp : s.phase = .busy w left) :
    step s = finish w s := by simp only [step, hp]

theorem step_of_idle {s : State} (hp : s.phase = .idle) : step s = hostAction s := by
  simp only [step, hp]

/-- An idle block takes the word its host offers, and completes it (R10, R38). -/
theorem step_of_issue {s : State} {w : Word} {rest : List HostAction} (hp : s.phase = .idle)
    (hh : s.host = .issue w :: rest) : step s = finish w { s with host := rest } := by
  simp only [step_of_idle hp, hostAction, hh]

theorem hostAction_exists_next (s : State) : ∃ t, hostAction s = .next t := by
  unfold hostAction
  split
  · exact ⟨_, rfl⟩
  · exact ⟨_, rfl⟩
  · exact finish_exists_next ..

theorem step_exists_next (s : State) : ∃ t, step s = .next t := by
  cases hp : s.phase with
  | busy w left => exact step_of_busy hp ▸ finish_exists_next w s
  | idle => exact step_of_idle hp ▸ hostAction_exists_next s

theorem clockEdge_exists_next (lat : Latencies) (p : Pins) (s : State) :
    ∃ t, clockEdge lat p s = .next t := by
  unfold clockEdge
  refine ite_exists_next ?_ ⟨_, rfl⟩
  split
  · exact ite_exists_next (finish_exists_next ..) ⟨_, rfl⟩
  · exact ite_exists_next ⟨_, rfl⟩ ⟨_, rfl⟩

/-! ### The statements -/

/-- Settles O39: every command, and an illegal word, answers with a next state, and so does the handshake. -/
theorem everyStateHasANextState : Obligations.EveryStateHasANextState :=
  ⟨step_exists_next, clockEdge_exists_next⟩

/-- Settles O40: an idle block's step is the offered word finished, by the two equations of `perform`. -/
theorem stepRunsTheDecodedCommand : Obligations.StepRunsTheDecodedCommand := by
  refine ⟨?command, ?illegal, fun s _ _ => ⟨offerNext_phase _ s, offerNext_host _ s⟩⟩
  case command =>
    intro s t w rest i hp hh hw ht
    have hperform : perform w { s with host := rest } = .next t := (perform_of_instr hw _).trans ht
    exact (step_of_issue hp hh).trans (finish_of_perform hperform)
  case illegal =>
    intro s w rest why hp hh hw
    exact (step_of_issue hp hh).trans (finish_of_perform (perform_of_illegal hw _))

end Sys2Proof.Machine
end

section
/-! PROOFS. The field product is additive in each operand (R80, R82), so its laws need checking on the eight
single-bit bytes only: the laws of R84 that the generator needs. -/

namespace Sys2Proof

/-- Adding one shift under the sum of two conditions is adding it under each and summing. -/
theorem ite_xor_add {n : Nat} (p q : Bool) (x y z : BitVec n) :
    (if (p ^^ q) = true then x ^^^ y ^^^ z else x ^^^ y) =
      (if p = true then x ^^^ z else x) ^^^ (if q = true then y ^^^ z else y) := by
  cases p <;> cases q
  case false.false => rfl
  case false.true => exact BitVec.xor_assoc x y z
  case true.false => exact (by ac_rfl : x ^^^ y ^^^ z = x ^^^ z ^^^ y)
  case true.true =>
    have hz : x ^^^ z ^^^ (y ^^^ z) = x ^^^ y ^^^ (z ^^^ z) := by ac_rfl
    simpa using hz.symm

theorem clmul_xor_right (a b c : Byte) : clmul a (b ^^^ c) = clmul a b ^^^ clmul a c := by
  refine List.foldl_hom₂ _ (· ^^^ ·) _ _ _ 0#15 0#15 fun x y i => ?_
  rw [BitVec.getLsbD_xor, ite_xor_add]

theorem clmul_xor_left (a b c : Byte) : clmul (a ^^^ b) c = clmul a c ^^^ clmul b c := by
  refine List.foldl_hom₂ _ (· ^^^ ·) _ _ _ 0#15 0#15 fun x y i => ?_
  rw [BitVec.setWidth_xor, BitVec.shiftLeft_xor_distrib]
  cases c.getLsbD i
  · rfl
  · simp only [if_true]; ac_rfl

theorem reducePrim_xor (x y : BitVec 15) :
    reducePrim (x ^^^ y) = reducePrim x ^^^ reducePrim y := by
  refine List.foldl_hom₂ _ (· ^^^ ·) _ _ _ x y fun x y i => ?_
  rw [BitVec.getLsbD_xor, ite_xor_add]

theorem gfMul_xor_right (a b c : Byte) : gfMul a (b ^^^ c) = gfMul a b ^^^ gfMul a c := by
  simp only [gfMul, clmul_xor_right, reducePrim_xor, BitVec.setWidth_xor]

theorem gfMul_xor_left (a b c : Byte) : gfMul (a ^^^ b) c = gfMul a c ^^^ gfMul b c := by
  simp only [gfMul, clmul_xor_left, reducePrim_xor, BitVec.setWidth_xor]

/-- A byte is the sum of its bits. -/
theorem xor_bits_eq (a : Byte) :
    (List.range 8).foldl (fun z i => if a.getLsbD i then z ^^^ 1#8 <<< i else z) 0#8 = a := by
  revert a; decide

/-- A property that sums keep holds of every byte if it holds of 0 and of the single-bit bytes. -/
theorem byte_xor_induction {P : Byte → Prop} (zero : P 0#8) (bit : ∀ i < 8, P (1#8 <<< i))
    (xor : ∀ a b, P a → P b → P (a ^^^ b)) (a : Byte) : P a := by
  rw [← xor_bits_eq a]
  refine List.foldlRecOn _ _ zero fun z hz i hi => ?_
  split
  · exact xor _ _ hz (bit i (List.mem_range.mp hi))
  · exact hz

@[simp] theorem gfMul_zero_right (a : Byte) : gfMul a 0#8 = 0#8 := by
  simpa using gfMul_xor_right a 0#8 0#8

@[simp] theorem gfMul_zero_left (a : Byte) : gfMul 0#8 a = 0#8 := by
  simpa using gfMul_xor_left 0#8 0#8 a

@[simp] theorem gfMul_one_left (a : Byte) : gfMul 1#8 a = a := by
  induction a using byte_xor_induction with
  | zero => rfl
  | bit i hi => revert i; decide
  | xor a b ha hb => rw [gfMul_xor_right, ha, hb]

theorem gfMul_comm (a b : Byte) : gfMul a b = gfMul b a := by
  induction a using byte_xor_induction with
  | zero => rw [gfMul_zero_left, gfMul_zero_right]
  | xor a₁ a₂ h₁ h₂ => rw [gfMul_xor_left, gfMul_xor_right, h₁, h₂]
  | bit i hi =>
    induction b using byte_xor_induction with
    | zero => rw [gfMul_zero_left, gfMul_zero_right]
    | xor b₁ b₂ h₁ h₂ => rw [gfMul_xor_left, gfMul_xor_right, h₁, h₂]
    | bit j hj => revert i j; decide

end Sys2Proof
end

section
/-! PROOFS. GENPOLY's loops compute the generator polynomial (R100 to R102): the inner loop is a product by one
root factor, read highest degree first, with the leading coefficient dropped. -/

namespace Sys2Proof

open Sys2Proof.Machine

/-! ### One root factor -/

/-- Polynomials are added part by part. -/
theorem poly_add_append {p q : Poly} (h : p.length = q.length) (p' q' : Poly) :
    Poly.add (p ++ p') (q ++ q') = Poly.add p q ++ Poly.add p' q' := by
  induction p generalizing q with
  | nil => obtain rfl := List.eq_nil_of_length_eq_zero h.symm; rfl
  | cons a p ih =>
    cases q with
    | nil => cases h
    | cons b q => exact congrArg _ (ih (Nat.succ.inj h))

/-- `(root + x)·q = root·q + x·q`. -/
theorem mul_root_factor (root : Byte) {q : Poly} (hq : q ≠ []) :
    Poly.mul [root, 0x01#8] q = Poly.add (q.map (gfMul root)) (0#8 :: q) := by
  obtain ⟨a, q, rfl⟩ := List.exists_cons_of_ne_nil hq
  have hone : gfMul 1#8 = id := funext gfMul_one_left
  have hq : Poly.add q [] = q := by cases q <;> rfl
  simp [Poly.mul, Poly.add, gfAdd, hone, hq]

/-- The inner loop of GENPOLY adds `root·p` and `x·p`, without the new leading coefficient (R101). -/
theorem add_eq_reverse_mulByRoot (root c : Byte) (cs : List Byte) :
    Poly.add ((c :: cs).reverse.map (gfMul root)) (0#8 :: cs.reverse) =
      (mulByRoot root (c :: cs)).reverse := by
  induction cs generalizing c with
  | nil => simp [Poly.add, gfAdd, mulByRoot, gfMul_comm root]
  | cons d ds ih =>
    have hlow := poly_add_append (p := (d :: ds).reverse.map (gfMul root)) (q := 0#8 :: ds.reverse)
      (by simp) [gfMul root c] [d]
    rw [ih] at hlow
    simpa [mulByRoot, Poly.add, gfAdd, gfMul_comm root c] using hlow

/-- The product by a root factor keeps the leading coefficient; the inner loop gives the others (R101). -/
theorem mul_root_ofHighFirst (root c : Byte) (cs : List Byte) :
    Poly.mul [root, 0x01#8] (Poly.ofHighFirst (c :: cs)) =
      Poly.ofHighFirst (c :: mulByRoot root (c :: cs)) := by
  have htop := poly_add_append (p := (c :: cs).reverse.map (gfMul root)) (q := 0#8 :: cs.reverse)
    (by simp) [] [c]
  rw [add_eq_reverse_mulByRoot] at htop
  rw [mul_root_factor root (by simp [Poly.ofHighFirst])]
  simpa [Poly.ofHighFirst, Poly.add] using htop

/-- The inner loop moves the polynomial up by one cell while there is room above it. -/
theorem mulByRoot_zeroCells_append (root c : Byte) (cs : List Byte) (m : Nat) :
    mulByRoot root (zeroCells (m + 1) ++ c :: cs) = zeroCells m ++ c :: mulByRoot root (c :: cs) := by
  induction m with
  | zero => simp [zeroCells, mulByRoot]
  | succ m ih => simpa [zeroCells, mulByRoot, List.replicate_succ] using ih

/-! ### The whole generator -/

/-- The outer loop's last factor. -/
theorem mulByRoots_succ (k i : Nat) (file : List Byte) :
    mulByRoots (k + 1) (alphaPow i) file =
      mulByRoot (alphaPow (i + k)) (mulByRoots k (alphaPow i) file) := by
  induction k generalizing i file with
  | zero => rfl
  | succ k ih =>
    rw [mulByRoots, ← alphaPow, ih, mulByRoots, ← alphaPow, Nat.succ_add_eq_add_succ]

/-- After `k` of its factors the array holds the degree-`k` generator, which is monic, above zeros. -/
theorem mulByRoots_eq_generatorPoly (k : Nat) :
    ∃ cs, generatorPoly k = Poly.ofHighFirst (0x01#8 :: cs) ∧
      ∀ m, mulByRoots k (alphaPow 0) (zeroCells (m + k) ++ [0x01#8]) =
        zeroCells m ++ 0x01#8 :: cs := by
  induction k with
  | zero => exact ⟨[], rfl, fun m => rfl⟩
  | succ k ih =>
    obtain ⟨cs, hpoly, hloop⟩ := ih
    refine ⟨mulByRoot (alphaPow k) (0x01#8 :: cs), ?_, fun m => ?_⟩
    · rw [generatorPoly, hpoly, mul_root_ofHighFirst]
    · rw [mulByRoots_succ, Nat.zero_add, ← Nat.succ_add_eq_add_succ, hloop,
        mulByRoot_zeroCells_append]

/-- GENPOLY n leaves the lower coefficients of the generator (R101, R102). -/
theorem ofHighFirst_generatorCells {n : Nat} (hn : 1 ≤ n) :
    Poly.ofHighFirst (0x01#8 :: generatorCells n) = generatorPoly n := by
  obtain ⟨k, rfl⟩ := Nat.exists_eq_add_of_le' hn
  obtain ⟨cs, hpoly, hloop⟩ := mulByRoots_eq_generatorPoly k
  have hcells : generatorCells (k + 1) = mulByRoot (alphaPow k) (0x01#8 :: cs) := by
    have hlast := mulByRoots_succ k 0 (zeroCells (0 + k) ++ [0x01#8])
    rw [hloop 0, Nat.zero_add] at hlast
    exact hlast
  rw [hcells, generatorPoly, hpoly, mul_root_ofHighFirst]

end Sys2Proof
end

section
/-! PROOFS. The invariants of R37: what FEED leaves of a register file, the operations that keep the invariants,
and from them the commands, the step, a run from reset, and the clock edge. -/

namespace Sys2Proof.Machine

open Sys2Proof

/-! ### FEED works on the active cells only -/

/-- FEED divides in the first `n` cells, from the first `n` cells, and keeps the others (R122). -/
theorem feedCells_eq_append {n : Nat} {g r : List Byte} (h1 : 1 ≤ n) (hr : n ≤ r.length) (d : Byte) :
    feedCells n d g r = feedCells n d (g.take n) (r.take n) ++ r.drop n := by
  obtain ⟨k, rfl⟩ := Nat.exists_eq_add_of_le' h1
  have hlen : ((r.take (k + 1)).drop 1 ++ [0#8]).length = k + 1 := by simp; omega
  have hshift : shiftIn (k + 1) r = ((r.take (k + 1)).drop 1 ++ [0#8]) ++ r.drop (k + 1) := by
    simp [shiftIn]
  have hshift' : shiftIn (k + 1) (r.take (k + 1)) = (r.take (k + 1)).drop 1 ++ [0#8] := by
    simp [shiftIn, List.take_take]
  have hcell : cell (r.take (k + 1)) 0 = cell r 0 := cell_take (Nat.succ_pos k)
  simp only [feedCells, addScaled, hcell, hshift, hshift', List.take_left' hlen,
    List.drop_left' hlen, List.take_take, Nat.min_self, List.take_of_length_le hlen.le,
    List.drop_of_length_le hlen.le, List.append_nil]

theorem feedCells_take_length {n : Nat} {g r : List Byte} (h1 : 1 ≤ n) (hg : n ≤ g.length)
    (hr : n ≤ r.length) (d : Byte) : (feedCells n d (g.take n) (r.take n)).length = n := by
  rw [feedCells_length h1 (by simpa using hg) (by simpa using hr), List.length_take_of_le hr]

/-- FEED keeps the cells at `n` and above (R122). -/
theorem cell_feedCells_of_le {n j : Nat} {g r : List Byte} (h1 : 1 ≤ n) (hg : n ≤ g.length)
    (hr : n ≤ r.length) (hj : n ≤ j) (d : Byte) : cell (feedCells n d g r) j = cell r j := by
  have hlen := feedCells_take_length h1 hg hr d
  rw [feedCells_eq_append h1 hr, cell_append_right (hlen.le.trans hj), hlen, cell_drop,
    Nat.add_sub_cancel' hj]

theorem take_feedCells {n : Nat} {g r : List Byte} (h1 : 1 ≤ n) (hg : n ≤ g.length)
    (hr : n ≤ r.length) (d : Byte) :
    (feedCells n d g r).take n = feedCells n d (g.take n) (r.take n) := by
  rw [feedCells_eq_append h1 hr, List.take_left' (feedCells_take_length h1 hg hr d)]

/-! ### The lengths of the register files -/

theorem one_le_toNat_of_ne_zero {b : Byte} (h : b ≠ 0#8) : 1 ≤ b.toNat := by
  have : b.toNat ≠ 0 := fun h0 => h (BitVec.eq_of_toNat_eq h0)
  omega

theorem degreeLegal_bounds {n : Byte} {s : State} (h : degreeLegal n s = true) :
    1 ≤ n.toNat ∧ n.toNat ≤ s.nmax.toNat := by
  obtain ⟨hne, hle⟩ : n ≠ 0#8 ∧ n.toNat ≤ s.nmax.toNat := by simpa [degreeLegal] using h
  exact ⟨one_le_toNat_of_ne_zero hne, hle⟩

theorem buildGenerator_g_length {n : Byte} {s : State} (h : degreeLegal n s = true) :
    (buildGenerator n s).g.length = s.nmax.toNat := by
  obtain ⟨h1, hle⟩ := degreeLegal_bounds h
  simp [generatorCells_length h1]; omega

/-- A command keeps both register files at NMAX cells and DEG at most NMAX. -/
theorem Effect.wellSized {i : Instr} {s t : State} (h : Effect i s t) (hs : s.wellSized)
    (hd : s.deg.toNat ≤ s.nmax.toNat) : t.wellSized ∧ t.deg.toNat ≤ t.nmax.toNat := by
  obtain ⟨hn, hg, hr⟩ := hs
  cases h with
  | genpoly n _ _ hl =>
    exact ⟨⟨hn, buildGenerator_g_length hl, zeroCells_length _⟩, (degreeLegal_bounds hl).2⟩
  | clear => exact ⟨⟨hn, hg, zeroCells_length _⟩, hd⟩
  | feed d _ _ hne =>
    have hlen := feedCells_length (d := d) (one_le_toNat_of_ne_zero hne) (hg ▸ hd) (hr ▸ hd)
    exact ⟨⟨hn, hg, hlen.trans hr⟩, hd⟩
  | _ => exact ⟨⟨hn, hg, hr⟩, hd⟩

/-! ### The operations keep the invariants -/

/-- Reset meets the invariants, whatever NMAX is (R35, R37). -/
theorem resetWith_inv {nmax : Byte} (h : 1 ≤ nmax.toNat) : (State.resetWith nmax).Inv where
  sized := ⟨decide_eq_true h, by simp [State.resetWith], by simp [State.resetWith]⟩
  degLe := Nat.zero_le _
  restZero j _ := ⟨cell_zeroCells _ j, cell_zeroCells _ j⟩
  noCause _ := rfl
  aCause h := nomatch h
  generator h := nomatch h

/-- The invariants do not speak of the handshake or the host. -/
theorem State.Inv.relabel {s : State} (h : s.Inv) (p : Phase) (r d : Bool) (a : List HostAction) :
    (relabel p r d a s).Inv :=
  ⟨h.sized, h.degLe, h.restZero, h.noCause, h.aCause, h.generator⟩

/-- Nor of RESULT. -/
theorem State.Inv.setResult {s : State} (h : s.Inv) (v : Byte) : (setResult v s).Inv :=
  ⟨h.sized, h.degLe, h.restZero, h.noCause, h.aCause, h.generator⟩

theorem Cause.code_bounds (c : Cause) : 1 ≤ c.code.toNat ∧ c.code.toNat ≤ 4 := by
  cases c <;> decide

theorem State.Inv.completed {s : State} (h : s.Inv) : (completed s).Inv :=
  h.relabel .idle true true s.host

theorem State.Inv.quietEdge {s : State} (h : s.Inv) : (quietEdge s).Inv :=
  h.relabel s.phase true false s.host

theorem State.Inv.takeFault {s : State} (h : s.Inv) (c : Cause) : (takeFault c s).Inv :=
  ⟨h.sized, h.degLe, h.restZero, nofun, fun _ => c.code_bounds, h.generator⟩

theorem State.Inv.resetEdge {s : State} (h : s.Inv) : (resetEdge s).Inv :=
  (resetWith_inv (of_decide_eq_true h.sized.1)).relabel .idle false false s.host

theorem buildGenerator_g_take {n : Byte} (h : 1 ≤ n.toNat) (s : State) :
    (buildGenerator n s).g.take n.toNat = generatorCells n.toNat :=
  List.take_left' (generatorCells_length h)

theorem cell_buildGenerator_g {n : Byte} {j : Nat} (h : 1 ≤ n.toNat) (hj : n.toNat ≤ j) (s : State) :
    cell (buildGenerator n s).g j = 0#8 := by
  rw [buildGenerator_g, cell_append_right ((generatorCells_length h).trans_le hj), cell_zeroCells]

/-- A command keeps the invariants (R37). -/
theorem Effect.inv {i : Instr} {s t : State} (h : Effect i s t) (hs : s.Inv) : t.Inv := by
  obtain ⟨hsized, hdeg⟩ := h.wellSized hs.sized hs.degLe
  cases h with
  | ignored => exact hs
  | noGenerator | badDegree | badCell | badSelector => exact hs.takeFault _
  | gfmul | readrem | readgen | readstat => exact hs.setResult _
  | genpoly n _ _ hl =>
    obtain ⟨h1, -⟩ := degreeLegal_bounds hl
    exact {
      sized := hsized
      degLe := hdeg
      restZero := fun j hj => ⟨cell_zeroCells _ j, cell_buildGenerator_g h1 hj s⟩
      noCause := hs.noCause
      aCause := hs.aCause
      generator := fun _ => by
        rw [State.heldGenerator, buildGenerator_deg, buildGenerator_g_take h1,
          ofHighFirst_generatorCells h1] }
  | clear =>
    exact ⟨hsized, hdeg, fun j hj => ⟨cell_zeroCells _ j, (hs.restZero j hj).2⟩, hs.noCause, hs.aCause,
      hs.generator⟩
  | feed d _ _ hne =>
    obtain ⟨-, hg, hr⟩ := hs.sized
    have hcell : ∀ j, s.deg.toNat ≤ j → cell (feedCells s.deg.toNat d s.g s.r) j = cell s.r j :=
      fun j hj => cell_feedCells_of_le (one_le_toNat_of_ne_zero hne) (hg ▸ hs.degLe) (hr ▸ hs.degLe) hj d
    exact ⟨hsized, hdeg, fun j hj => ⟨(hcell j hj).trans (hs.restZero j hj).1, (hs.restZero j hj).2⟩,
      hs.noCause, hs.aCause, hs.generator⟩

/-- So does any word, legal or not. -/
theorem perform_inv {w : Word} {s t : State} (h : perform w s = .next t) (hs : s.Inv) : t.Inv := by
  rcases perform_cases h with ⟨i, -, h⟩ | ⟨_, -, ⟨-, rfl⟩ | ⟨-, rfl⟩⟩
  · exact h.inv hs
  · exact hs
  · exact hs.takeFault _

/-! ### The step, runs and the clock edge -/

theorem step_inv {s t : State} (hs : s.Inv) (h : step s = .next t) : t.Inv := by
  rcases step_cases h with ⟨w, _, u, -, hu, rfl⟩ | ⟨-, -, rfl⟩ | ⟨rest, -, -, rfl⟩ |
    ⟨w, rest, u, -, -, hu, rfl⟩
  case inl => exact (perform_inv hu hs).completed
  case inr.inl => exact hs.quietEdge
  case inr.inr.inl => exact (hs.relabel s.phase s.rstN s.done rest).resetEdge
  case inr.inr.inr =>
    exact (perform_inv hu (hs.relabel s.phase s.rstN s.done rest)).completed

/-- A run's first step. -/
theorem core_run_succ {s u : State} (h : step s = .next u) (k : Nat) :
    core.run (k + 1) s = core.run k u := by
  have hcore : core.step s = .next u := h
  simp only [Host.Core.run, hcore]

/-- What every step keeps, every run keeps. -/
theorem core_run_induction {P : State → Prop} (hstep : ∀ s t, P s → step s = .next t → P t) {k : Nat}
    {s t : State} (hs : P s) (h : core.run k s = .next t) : P t := by
  induction k generalizing s with
  | zero => injection h with h; exact h ▸ hs
  | succ k ih =>
    obtain ⟨u, hu⟩ := step_exists_next s
    exact ih (hstep s u hs hu) (core_run_succ hu k ▸ h)

theorem clockEdge_inv {lat : Latencies} {p : Pins} {s t : State} (hs : s.Inv)
    (h : clockEdge lat p s = .next t) : t.Inv := by
  rcases clockEdge_cases h with ⟨-, rfl⟩ | ⟨-, w, _, u, -, -, hu, rfl⟩ | ⟨-, w, left, -, -, rfl⟩ |
    ⟨-, -, -, -, rfl⟩ | ⟨-, -, -, rfl⟩
  case inl => exact hs.resetEdge
  case inr.inl => exact (perform_inv hu hs).completed
  case inr.inr.inl => exact hs.relabel (.busy w (left - 1)) true false s.host
  case inr.inr.inr.inl => exact hs.relabel (.busy p.cmdWord (latency lat p.cmdWord s)) true false s.host
  case inr.inr.inr.inr => exact hs.quietEdge

/-! ### The statements -/

/-- Settles O4: each step ends in a performed word, a quiet edge or a reset, and each of them keeps the
invariants; a run keeps what its steps keep. -/
theorem stepKeepsTheInvariants : Obligations.StepKeepsTheInvariants :=
  ⟨fun _ _ => step_inv, fun _ actions _ _ hn =>
    core_run_induction (fun _ _ => step_inv) ((resetWith_inv hn).relabel .idle false false actions)⟩

/-- Settles O5: each kind of edge keeps the invariants. -/
theorem clockEdgeKeepsTheInvariants : Obligations.ClockEdgeKeepsTheInvariants :=
  fun _ _ _ _ => clockEdge_inv

/-- Settles O3. -/
theorem resetSatisfiesTheInvariants : Obligations.ResetSatisfiesTheInvariants :=
  fun _ => resetWith_inv

end Sys2Proof.Machine
end

section
/-! PROOFS. What a command writes and what it leaves (R24, R30), the reset values (R35), and the layout of STATUS
(R27), read off the effects. -/

namespace Sys2Proof.Machine

open Sys2Proof

/-! ### What an effect changes, register by register -/

/-- DEG and G are written by GENPOLY alone (R30). -/
theorem Effect.deg_g {i : Instr} {s t : State} (h : Effect i s t) (hi : ∀ n, i ≠ .genpoly n) :
    t.deg = s.deg ∧ t.g = s.g := by
  cases h with
  | genpoly n => exact absurd rfl (hi n)
  | _ => exact ⟨rfl, rfl⟩

/-- R is written by GENPOLY, FEED and CLEAR alone (R30). -/
theorem Effect.r {i : Instr} {s t : State} (h : Effect i s t) (hgen : ∀ n, i ≠ .genpoly n)
    (hfeed : ∀ d, i ≠ .feed d) (hclear : i ≠ .clear) : t.r = s.r := by
  cases h with
  | genpoly n => exact absurd rfl (hgen n)
  | feed d => exact absurd rfl (hfeed d)
  | clear => exact absurd rfl hclear
  | _ => rfl

/-- FEED writes R below DEG alone (R30, R122). -/
theorem Effect.feed_r {d : Byte} {s t : State} (h : Effect (.feed d) s t) (hs : s.wellSized)
    (hd : s.deg.toNat ≤ s.nmax.toNat) :
    t.r.length = s.r.length ∧ ∀ j, s.deg.toNat ≤ j → cell t.r j = cell s.r j := by
  obtain ⟨-, hg, hr⟩ := hs
  cases h with
  | feed _ _ _ hne =>
    have h1 := one_le_toNat_of_ne_zero hne
    exact ⟨feedCells_length h1 (hg ▸ hd) (hr ▸ hd),
      fun j hj => cell_feedCells_of_le h1 (hg ▸ hd) (hr ▸ hd) hj d⟩
  | _ => exact ⟨rfl, fun _ _ => rfl⟩

/-- RESULT is written by an unfaulting GFMUL, READREM or READGEN accepted with FAULT = 0, and by a READSTAT
with a legal selector, alone (R24). -/
theorem Effect.result {i : Instr} {s t : State} (h : Effect i s t) :
    t.result = s.result ∨
      (s.fault = false ∧ t.fault = false ∧
        ((∃ a b, i = .gfmul a b) ∨ (∃ j, i = .readrem j) ∨ ∃ j, i = .readgen j)) ∨
      ∃ sel, i = .readstat sel ∧ sel.toNat ≤ 2 := by
  cases h with
  | gfmul a b _ hf => exact .inr (.inl ⟨hf, hf, .inl ⟨a, b, rfl⟩⟩)
  | readrem j _ hf => exact .inr (.inl ⟨hf, hf, .inr (.inl ⟨j, rfl⟩)⟩)
  | readgen j _ hf => exact .inr (.inl ⟨hf, hf, .inr (.inr ⟨j, rfl⟩)⟩)
  | readstat sel _ hs => exact .inr (.inr ⟨sel, rfl, hs⟩)
  | _ => exact .inl rfl

/-- FAULT and CAUSE are written by a fault alone, which needs FAULT = 0 and writes nothing else (R160). -/
theorem Effect.fault_cause {i : Instr} {s t : State} (h : Effect i s t) :
    (t.fault = s.fault ∧ t.cause = s.cause) ∨
      (s.fault = false ∧ t = { s with fault := true, cause := t.cause }) := by
  cases h with
  | noGenerator _ _ hf | badDegree _ _ hf | badCell _ _ _ hf | badSelector _ _ hf =>
    exact .inr ⟨hf, rfl⟩
  | _ => exact .inl ⟨rfl, rfl⟩

/-- The fault state ignores every command but READSTAT (R162). -/
theorem Effect.eq_of_faulted {i : Instr} {s t : State} (h : Effect i s t) (hf : s.fault = true)
    (hi : ∀ sel, i ≠ .readstat sel) : t = s := by
  cases h with
  | ignored => rfl
  | readstat sel => exact absurd rfl (hi sel)
  | _ => simp_all

/-! ### The statements -/

/-- Settles O37: the frame of each register, from what each effect writes. -/
theorem commandsWriteOnlyTheirRegisters : Obligations.CommandsWriteOnlyTheirRegisters := by
  intro i s t h
  have he := exec_cases h
  obtain ⟨hphase, hrst, hdone, hhost, hnmax⟩ := he.handshake
  refine ⟨⟨hnmax, hphase, hrst, hdone, hhost⟩, he.deg_g, he.r, ?feed, ?result, ?fault, he.eq_of_faulted⟩
  case feed =>
    rintro d rfl
    exact he.feed_r
  case result =>
    intro hgfmul hrem hgen hstat
    rcases he.result with hr | ⟨-, -, ⟨a, b, hi⟩ | ⟨j, hi⟩ | ⟨j, hi⟩⟩ | ⟨sel, hi, -⟩
    · exact hr
    · exact absurd hi (hgfmul a b)
    · exact absurd hi (hrem j)
    · exact absurd hi (hgen j)
    · exact absurd hi (hstat sel)
  case fault =>
    intro hchanged
    rcases he.fault_cause with ⟨hf, hc⟩ | hfault
    · exact absurd hchanged (by simp [hf, hc])
    · exact hfault

/-- Settles O38: an illegal word never writes RESULT, and a command only as its effect says. -/
theorem resultHasFourWriters : Obligations.ResultHasFourWriters := by
  intro w s t h
  refine ⟨rfl, ?_⟩
  rcases perform_cases h with ⟨i, hi, he⟩ | ⟨_, -, ⟨-, rfl⟩ | ⟨-, rfl⟩⟩
  · simpa only [hi, Decoded.instr.injEq] using he.result
  · exact .inl rfl
  · exact .inl rfl

/-- Settles O1: reset writes 0 to every register, and both register files are zero cells. -/
theorem resetLeavesEveryRegisterZero : Obligations.ResetLeavesEveryRegisterZero :=
  ⟨rfl, rfl, rfl, rfl, rfl, rfl, rfl, rfl,
    fun j => ⟨cell_zeroCells 30 j, cell_zeroCells 30 j⟩, by decide⟩

/-- Settles O26: STATUS is put together from its fields bit by bit. -/
theorem statusHasItsLayout : Obligations.StatusHasItsLayout := by
  intro s
  have hfields : ∀ (f v : Bool) (c : BitVec 3),
      (BitVec.ofBool f ++ BitVec.ofBool v ++ c ++ 0#3).getLsbD 7 = f ∧
      (BitVec.ofBool f ++ BitVec.ofBool v ++ c ++ 0#3).getLsbD 6 = v ∧
      (BitVec.ofBool f ++ BitVec.ofBool v ++ c ++ 0#3).extractLsb' 3 3 = c ∧
      (BitVec.ofBool f ++ BitVec.ofBool v ++ c ++ 0#3).extractLsb' 0 3 = 0#3 := by decide
  obtain ⟨hfault, hvalid, hcause, hzero⟩ := hfields s.fault (genValid s) s.cause
  refine ⟨hfault, ?_, hcause, hzero, rfl⟩
  rw [status, hvalid]
  simp [genValid]

end Sys2Proof.Machine
end

section
/-! PROOFS. The handshake (R36, R38, R190): its ports after an edge, and the clocked run of one command as one
command step, for any latencies. -/

namespace Sys2Proof.Machine

open Sys2Proof

/-! ### The handshake fields after an edge -/

/-- `rst_n` is remembered as sampled (R36). -/
theorem clockEdge_rstN {lat : Latencies} {p : Pins} {s t : State}
    (h : clockEdge lat p s = .next t) : t.rstN = p.rstN := by
  rcases clockEdge_cases h with ⟨hr, rfl⟩ | ⟨hr, _, _, _, -, -, -, rfl⟩ | ⟨hr, _, _, -, -, rfl⟩ |
    ⟨hr, -, -, -, rfl⟩ | ⟨hr, -, -, rfl⟩ <;> exact hr.symm

/-- `done` marks a completing edge (R36). -/
theorem clockEdge_done_iff {lat : Latencies} {p : Pins} {s t : State}
    (h : clockEdge lat p s = .next t) :
    t.done = true ↔ p.rstN = true ∧ ∃ w left, s.phase = .busy w left ∧ left ≤ 1 := by
  rcases clockEdge_cases h with ⟨hr, rfl⟩ | ⟨hr, w, left, _, hp, hl, -, rfl⟩ |
    ⟨-, w, left, hp, hl, rfl⟩ | ⟨-, hp, -, -, rfl⟩ | ⟨-, hp, -, rfl⟩
  case inl => simp [hr]
  case inr.inl => exact ⟨fun _ => ⟨hr, w, left, hp, hl⟩, fun _ => rfl⟩
  case inr.inr.inl =>
    have hcount : ¬ left ≤ 1 := by omega
    simp [hp, hcount]
  case inr.inr.inr.inl => simp [hp]
  case inr.inr.inr.inr => simp [hp]

/-- From an idle block an edge accepts the offered word, or leaves the block idle (R38). -/
theorem clockEdge_phase_of_idle {lat : Latencies} {p : Pins} {s t : State}
    (h : clockEdge lat p s = .next t) (hidle : s.phase = .idle) :
    (p.rstN = true ∧ p.cmdValid = true ∧ cmdReady s = true ∧
      t.phase = .busy p.cmdWord (latency lat p.cmdWord s)) ∨
    (¬ (p.rstN = true ∧ p.cmdValid = true ∧ cmdReady s = true) ∧ t.phase = .idle) := by
  rcases clockEdge_cases h with ⟨hr, rfl⟩ | ⟨-, w, left, _, hp, -, -, -⟩ | ⟨-, w, left, hp, -, -⟩ |
    ⟨hr, -, hv, hc, rfl⟩ | ⟨-, -, hv, rfl⟩
  case inl => exact .inr ⟨by simp [hr], rfl⟩
  case inr.inl => exact absurd (hidle.symm.trans hp) nofun
  case inr.inr.inl => exact absurd (hidle.symm.trans hp) nofun
  case inr.inr.inr.inl => exact .inl ⟨hr, hv, hc, rfl⟩
  case inr.inr.inr.inr =>
    refine .inr ⟨?_, hidle⟩
    rcases hv with hv | hv <;> simp [hv]

/-! ### The edges of one command -/

/-- A run's first edge. -/
theorem clockEdges_cons {lat : Latencies} {p : Pins} {s t : State} (h : clockEdge lat p s = .next t)
    (ps : List Pins) : clockEdges lat (p :: ps) s = clockEdges lat ps t := by
  simp only [clockEdges, h]

/-- An accepted word completes at its last edge, whatever the command pins show meanwhile (R190). -/
theorem clockEdges_busy {lat : Latencies} {w : Word} {busy : List Pins} {s : State}
    (hne : busy ≠ []) (hp : s.phase = .busy w busy.length) (hr : ∀ p ∈ busy, p.rstN = true) :
    clockEdges lat busy s = finish w s := by
  induction busy generalizing s with
  | nil => exact absurd rfl hne
  | cons p ps ih =>
    have hrp : p.rstN = true := hr p (List.mem_cons_self ..)
    have hrps : ∀ q ∈ ps, q.rstN = true := fun q hq => hr q (List.mem_cons_of_mem p hq)
    cases ps with
    | nil =>
      have hedge : clockEdge lat p s = finish w s := by
        simp only [clockEdge, hrp, hp]; rfl
      obtain ⟨t, ht⟩ := finish_exists_next w s
      rw [clockEdges_cons (hedge.trans ht), ht, clockEdges]
    | cons q qs =>
      have hedge : clockEdge lat p s =
          .next (relabel (.busy w (q :: qs).length) true false s.host s) := by
        simp only [clockEdge, hrp, hp]; rfl
      rw [clockEdges_cons hedge, ih (List.cons_ne_nil q qs) rfl hrps, finish_relabel]

theorem latency_pos {lat : Latencies} (h : lat.legal) (w : Word) (s : State) :
    1 ≤ latency lat w s := by
  obtain ⟨hgfmul, hgenpoly, hclear, hfeed, hread, hignored, hillegal⟩ := h
  unfold latency
  split
  · exact hignored
  · split
    · rename_i i _
      cases i with
      | gfmul => exact hgfmul
      | genpoly n => exact hgenpoly n
      | clear => exact hclear
      | feed => exact hfeed s.deg
      | readrem | readgen | readstat => exact hread
    · exact hillegal

/-- A ready block accepts the offered word, and the word completes (R38, R190). -/
theorem clockEdges_offer {lat : Latencies} {w : Word} {s : State} {busy : List Pins}
    (hlat : lat.legal) (hp : s.phase = .idle) (hs : s.rstN = true)
    (hlen : busy.length = latency lat w s) (hr : ∀ p ∈ busy, p.rstN = true) :
    clockEdges lat (offer w :: busy) s = finish w s := by
  have hne : busy ≠ [] := List.ne_nil_of_length_pos (hlen ▸ latency_pos hlat w s)
  have haccept : clockEdge lat (offer w) s =
      .next (relabel (.busy w (latency lat w s)) true false s.host s) := by
    simp only [clockEdge, offer, hp, cmdReady, hs]; rfl
  rw [clockEdges_cons haccept, clockEdges_busy hne (congrArg (Phase.busy w) hlen.symm) hr, finish_relabel]

/-! ### The statements -/

/-- Settles O45: the ports after an edge, from the phase, `done` and `rst_n` it leaves. -/
theorem portsFollowTheHandshake : Obligations.PortsFollowTheHandshake := by
  intro lat p s t h
  refine ⟨clockEdge_done_iff h, ?ready, ?accepts, ?word⟩
  case ready => simp [outputs, cmdReady, clockEdge_rstN h]
  case accepts =>
    intro hidle
    rcases clockEdge_phase_of_idle h hidle with ⟨hr, hv, hc, hp⟩ | ⟨hno, hp⟩
    · exact ⟨fun _ => ⟨hr, hv, hc⟩, fun _ => ⟨_, _, hp⟩⟩
    · exact ⟨fun ⟨_, _, hb⟩ => absurd (hp.symm.trans hb) nofun, fun hyes => absurd hyes hno⟩
  case word =>
    intro hidle w left hb
    rcases clockEdge_phase_of_idle h hidle with ⟨-, -, -, hp⟩ | ⟨-, hp⟩
    · obtain ⟨rfl, rfl⟩ := Phase.busy.inj (hp.symm.trans hb)
      exact ⟨rfl, rfl⟩
    · exact absurd (hp.symm.trans hb) nofun

/-- Settles O43: the edge after a reset edge makes the block ready, then the offer is accepted and the word
completes at the last edge of its latency, as in one step. -/
theorem handshakeRefinesTheStep : Obligations.HandshakeRefinesTheStep := by
  intro lat w s busy rest hlat hp hlen hr
  have hstep : step { s with host := .issue w :: rest } = finish w { s with host := rest } :=
    step_of_issue hp rfl
  rw [hstep]
  by_cases hs : s.rstN = true
  · rw [if_pos hs]
    exact clockEdges_offer hlat hp hs hlen hr
  · have hwait : clockEdge lat (offer w) { s with host := rest } =
        .next (relabel s.phase true false rest s) := by
      simp only [clockEdge, offer, hp, cmdReady, hs]; rfl
    rw [if_neg hs, List.singleton_append, clockEdges_cons hwait]
    exact (clockEdges_offer (s := relabel s.phase true false rest s) hlat hp rfl hlen hr).trans
      (finish_relabel w s.phase true false { s with host := rest })

end Sys2Proof.Machine
end

section
/-! PROOFS. Cells of G and R at DEG and above cannot be observed (R35, R41, U9, U10): every operation takes two
states that share all but those cells to two such states, so the observations of any words are equal. -/

namespace Sys2Proof.Machine

open Sys2Proof

/-! ### Two states that share the active cells -/

theorem State.sameActive.refl (s : State) : s.sameActive s := ⟨rfl, rfl, rfl⟩

section SharedRegisters
variable {s t : State} (h : s.sameActive t)
include h

theorem State.sameActive.nmax_eq : t.nmax = s.nmax := by rw [h.1]
theorem State.sameActive.deg_eq : t.deg = s.deg := by rw [h.1]
theorem State.sameActive.result_eq : t.result = s.result := by rw [h.1]
theorem State.sameActive.fault_eq : t.fault = s.fault := by rw [h.1]
theorem State.sameActive.cause_eq : t.cause = s.cause := by rw [h.1]

theorem State.sameActive.g_take : s.g.take s.deg.toNat = t.g.take s.deg.toNat :=
  h.deg_eq ▸ h.2.1

theorem State.sameActive.r_take : s.r.take s.deg.toNat = t.r.take s.deg.toNat :=
  h.deg_eq ▸ h.2.2

theorem State.sameActive.status_eq : status t = status s := by
  simp only [status, genValid, h.fault_eq, h.deg_eq, h.cause_eq]

theorem State.sameActive.statusValue_eq (sel : Byte) : statusValue sel t = statusValue sel s := by
  simp only [statusValue, h.status_eq, h.deg_eq, h.nmax_eq]

/-! ### The operations on them -/

theorem State.sameActive.setResult (v : Byte) : (setResult v s).sameActive (setResult v t) :=
  ⟨congrArg (Machine.setResult v) h.1, h.2⟩

theorem State.sameActive.takeFault (c : Cause) : (takeFault c s).sameActive (takeFault c t) :=
  ⟨congrArg (Machine.takeFault c) h.1, h.2⟩

/-- GENPOLY overwrites what differed (R186). -/
theorem State.sameActive.buildGenerator_eq (n : Byte) : buildGenerator n t = buildGenerator n s := by
  rw [h.1]; rfl

/-- New contents of R that agree below DEG. -/
theorem State.sameActive.setR {a b : List Byte} (hab : a.take s.deg.toNat = b.take s.deg.toNat) :
    State.sameActive { s with r := a } { t with r := b } :=
  ⟨congrArg (fun u : State => { u with r := b }) h.1, h.2.1, by rw [hab, ← h.deg_eq]⟩

end SharedRegisters

/-- A legal index reads an active cell. -/
theorem cell_eq_of_take_eq {a b : List Byte} {n j : Nat} (h : a.take n = b.take n) (hj : j < n) :
    cell a j = cell b j := by
  rw [← cell_take hj, h, cell_take hj]

/-- FEED's new active cells come from the old ones (R122). -/
theorem take_feedCells_congr {n : Nat} {g g' r r' : List Byte} (h1 : 1 ≤ n) (hg : n ≤ g.length)
    (hg' : n ≤ g'.length) (hr : n ≤ r.length) (hr' : n ≤ r'.length) (hgg : g.take n = g'.take n)
    (hrr : r.take n = r'.take n) (d : Byte) :
    (feedCells n d g r).take n = (feedCells n d g' r').take n := by
  rw [take_feedCells h1 hg hr, take_feedCells h1 hg' hr', hgg, hrr]

/-! ### The commands on them -/

/-- Two results are next states that share the active cells. -/
def SameNext (a b : Result) : Prop := ∃ s t, a = .next s ∧ b = .next t ∧ s.sameActive t

theorem sameNext_of_sameActive {s t : State} (h : s.sameActive t) : SameNext (.next s) (.next t) :=
  ⟨s, t, rfl, rfl, h⟩

section SharedChecks
variable {s t : State} (h : s.sameActive t)
include h

theorem sameNext_raise (c : Cause) : SameNext (raise c s) (raise c t) :=
  sameNext_of_sameActive (h.takeFault c)

theorem sameNext_unlessFaulted {a b : Result} (hab : SameNext a b) :
    SameNext (unlessFaulted s a) (unlessFaulted t b) := by
  unfold unlessFaulted
  rw [h.fault_eq]
  split
  · exact sameNext_of_sameActive h
  · exact hab

theorem sameNext_needGenerator {a b : Result} (hab : s.deg ≠ 0#8 → SameNext a b) :
    SameNext (needGenerator s a) (needGenerator t b) := by
  unfold needGenerator
  rw [h.deg_eq]
  split
  · exact sameNext_raise h _
  · exact hab ‹_›

theorem sameNext_readCell {a b : List Byte} (hab : a.take s.deg.toNat = b.take s.deg.toNat) (i : Byte) :
    SameNext (readCell a i s) (readCell b i t) := by
  refine sameNext_needGenerator h fun _ => ?_
  have hindex : indexLegal i t = indexLegal i s := by rw [indexLegal, indexLegal, h.deg_eq]
  rw [hindex]
  split
  case isTrue hi =>
    rw [cell_eq_of_take_eq hab (of_decide_eq_true hi)]
    exact sameNext_of_sameActive (h.setResult _)
  case isFalse => exact sameNext_raise h _

theorem sameNext_feed (hs : s.wellSized) (ht : t.wellSized) (hd : s.deg.toNat ≤ s.nmax.toNat)
    (d : Byte) : SameNext (execFeed d s) (execFeed d t) := by
  obtain ⟨-, hgs, hrs⟩ := hs
  obtain ⟨-, hgt, hrt⟩ := ht
  rw [h.nmax_eq] at hgt hrt
  refine sameNext_unlessFaulted h (sameNext_needGenerator h fun hne => ?_)
  have hcells : (feedCells s.deg.toNat d s.g s.r).take s.deg.toNat =
      (feedCells t.deg.toNat d t.g t.r).take s.deg.toNat := by
    rw [h.deg_eq]
    exact take_feedCells_congr (one_le_toNat_of_ne_zero hne) (hgs ▸ hd) (hgt ▸ hd) (hrs ▸ hd)
      (hrt ▸ hd) h.g_take h.r_take d
  exact sameNext_of_sameActive (h.setR hcells)

theorem sameNext_genpoly (n : Byte) : SameNext (execGenpoly n s) (execGenpoly n t) := by
  refine sameNext_unlessFaulted h ?_
  have hlegal : degreeLegal n t = degreeLegal n s := by rw [degreeLegal, degreeLegal, h.nmax_eq]
  rw [hlegal, h.buildGenerator_eq]
  split
  · exact sameNext_of_sameActive (.refl _)
  · exact sameNext_raise h _

theorem sameNext_readstat (sel : Byte) : SameNext (execReadstat sel s) (execReadstat sel t) := by
  unfold execReadstat
  rw [h.statusValue_eq]
  split
  · exact sameNext_of_sameActive (h.setResult _)
  · exact sameNext_unlessFaulted h (sameNext_raise h _)

theorem sameNext_exec (hs : s.wellSized) (ht : t.wellSized) (hd : s.deg.toNat ≤ s.nmax.toNat)
    (i : Instr) : SameNext (exec i s) (exec i t) := by
  cases i with
  | gfmul a b => exact sameNext_unlessFaulted h (sameNext_of_sameActive (h.setResult _))
  | genpoly n => exact sameNext_genpoly h n
  | clear =>
    have hclear := h.setR (a := zeroCells s.nmax.toNat) (b := zeroCells t.nmax.toNat) (by rw [h.nmax_eq])
    exact sameNext_unlessFaulted h (sameNext_of_sameActive hclear)
  | feed d => exact sameNext_feed h hs ht hd d
  | readrem j => exact sameNext_unlessFaulted h (sameNext_readCell h h.r_take j)
  | readgen j => exact sameNext_unlessFaulted h (sameNext_readCell h h.g_take j)
  | readstat sel => exact sameNext_readstat h sel

theorem sameNext_perform (hs : s.wellSized) (ht : t.wellSized) (hd : s.deg.toNat ≤ s.nmax.toNat)
    (w : Word) : SameNext (perform w s) (perform w t) := by
  unfold perform
  split
  · exact sameNext_exec h hs ht hd _
  · exact sameNext_unlessFaulted h (sameNext_raise h _)

end SharedChecks

/-! ### The statement -/

/-- A word keeps both register files at NMAX cells and DEG at most NMAX. -/
theorem perform_wellSized {w : Word} {s t : State} (h : perform w s = .next t) (hs : s.wellSized)
    (hd : s.deg.toNat ≤ s.nmax.toNat) : t.wellSized ∧ t.deg.toNat ≤ t.nmax.toNat := by
  rcases perform_cases h with ⟨_, -, he⟩ | ⟨_, -, ⟨-, rfl⟩ | ⟨-, rfl⟩⟩
  · exact he.wellSized hs hd
  · exact ⟨hs, hd⟩
  · exact ⟨hs, hd⟩

/-- Settles O48, by induction on the words: each leaves equal RESULTs and two states that again differ only in
cells at DEG and above. -/
theorem cellsAboveDegreeAreUnobservable : Obligations.CellsAboveDegreeAreUnobservable := by
  intro ws
  induction ws with
  | nil =>
    intro s t _ _ _ h
    rw [observe, observe, h.fault_eq, h.cause_eq]
  | cons w ws ih =>
    intro s t hs ht hd h
    obtain ⟨s', t', hs', ht', h'⟩ := sameNext_perform h hs ht hd w
    obtain ⟨hsized, hdeg⟩ := perform_wellSized hs' hs hd
    obtain ⟨hsized', -⟩ := perform_wellSized ht' ht (by rwa [h.deg_eq, h.nmax_eq])
    simp only [observe, hs', ht', ih s' t' hsized hsized' hdeg h', h'.result_eq]

end Sys2Proof.Machine
end

section
/-! PROOFS. The reads and GFMUL are idempotent (R46): the effects of a command are exactly its answers, and every
effect but FEED's new R is one that the command has again on the state it leaves. -/

namespace Sys2Proof.Machine

open Sys2Proof

/-! ### What a passed or failed check runs -/

theorem unlessFaulted_of_faulted {s : State} (h : s.fault = true) (command : Result) :
    unlessFaulted s command = .next s := if_pos h

theorem unlessFaulted_of_unfaulted {s : State} (h : s.fault = false) (command : Result) :
    unlessFaulted s command = command := if_neg (ne_true_of_eq_false h)

theorem readCell_of_lt {i : Byte} {s : State} (h : i.toNat < s.deg.toNat) (file : List Byte) :
    readCell file i s = .next (setResult (cell file i.toNat) s) := by
  have hd : s.deg ≠ 0#8 := fun h0 => by simp [h0] at h
  exact (if_neg hd).trans (if_pos (decide_eq_true h))

theorem readCell_of_le {i : Byte} {s : State} (hd : s.deg ≠ 0#8) (h : s.deg.toNat ≤ i.toNat)
    (file : List Byte) : readCell file i s = .next (takeFault .badIndex s) :=
  (if_neg hd).trans (if_neg fun hi => absurd (of_decide_eq_true hi) h.not_gt)

/-- The fault state ignores every command but a READSTAT with a legal selector (R162). -/
theorem exec_of_faulted {i : Instr} {s : State} (hf : s.fault = true)
    (hi : ∀ sel, i ≠ .readstat sel ∨ 2 < sel.toNat) : exec i s = .next s := by
  cases i with
  | readstat sel =>
    have hsel : 2 < sel.toNat := (hi sel).resolve_left (absurd rfl)
    exact (if_neg fun h => absurd (of_decide_eq_true h) hsel.not_ge).trans
      (unlessFaulted_of_faulted hf _)
  | _ => exact unlessFaulted_of_faulted hf _

/-! ### A command answers each of its effects -/

/-- The converse of `exec_cases`. -/
theorem exec_of_effect {i : Instr} {s t : State} (h : Effect i s t) : exec i s = .next t := by
  cases h with
  | ignored _ _ hf hi => exact exec_of_faulted hf hi
  | noGenerator _ _ hf hneeds hd =>
    cases i with
    | feed | readrem | readgen => exact (unlessFaulted_of_unfaulted hf _).trans (if_pos hd)
    | _ => nomatch hneeds
  | badDegree n _ hf hl =>
    exact (unlessFaulted_of_unfaulted hf _).trans (if_neg (ne_true_of_eq_false hl))
  | badCell j _ _ hf hread hd hj =>
    rcases hread with rfl | rfl <;>
      exact (unlessFaulted_of_unfaulted hf _).trans (readCell_of_le hd hj _)
  | badSelector sel _ hf hsel =>
    exact (if_neg fun h => absurd (of_decide_eq_true h) hsel.not_ge).trans
      (unlessFaulted_of_unfaulted hf _)
  | gfmul _ _ _ hf | clear _ hf => exact unlessFaulted_of_unfaulted hf _
  | genpoly n _ hf hl => exact (unlessFaulted_of_unfaulted hf _).trans (if_pos hl)
  | feed d _ hf hd => exact (unlessFaulted_of_unfaulted hf _).trans (if_neg hd)
  | readrem j _ hf hj | readgen j _ hf hj =>
    exact (unlessFaulted_of_unfaulted hf _).trans (readCell_of_lt hj _)
  | readstat sel _ hsel => exact if_pos (decide_eq_true hsel)

/-! ### The statement -/

/-- A command that is not FEED changes nothing on the state it leaves: after a fault it is ignored, and what it
writes does not depend on what it wrote. -/
theorem Effect.idempotent {i : Instr} {s t : State} (h : Effect i s t) (hi : ∀ d, i ≠ .feed d) :
    Effect i t t := by
  cases h with
  | ignored _ _ hf hi => exact .ignored _ _ hf hi
  | noGenerator _ _ _ hneeds => exact .ignored _ _ rfl fun _ => .inl (by rintro rfl; nomatch hneeds)
  | badDegree => exact .ignored _ _ rfl fun _ => .inl nofun
  | badCell _ _ _ _ hread =>
    exact .ignored _ _ rfl fun _ => .inl (by rcases hread with rfl | rfl <;> nofun)
  | badSelector sel _ _ hsel =>
    refine .ignored _ _ rfl fun sel' => or_iff_not_imp_left.mpr fun h => ?_
    obtain rfl := Instr.readstat.inj (not_not.mp h)
    exact hsel
  | gfmul a b _ hf => exact .gfmul a b _ hf
  | genpoly n _ hf hl => exact .genpoly n (buildGenerator n s) hf hl
  | clear _ hf => exact .clear { s with r := zeroCells s.nmax.toNat } hf
  | feed d => exact absurd rfl (hi d)
  | readrem j _ hf hj => exact .readrem j (setResult (cell s.r j.toNat) s) hf hj
  | readgen j _ hf hj => exact .readgen j (setResult (cell s.g j.toNat) s) hf hj
  | readstat sel _ hsel => exact .readstat sel (setResult (statusValue sel s) s) hsel

/-- Settles O46: none of the four is FEED, the one command that reads what it writes. -/
theorem readsAreIdempotent : Obligations.ReadsAreIdempotent := by
  intro i s t hread h
  refine exec_of_effect ((exec_cases h).idempotent fun d => ?_)
  rcases hread with ⟨a, b, rfl⟩ | ⟨j, rfl⟩ | ⟨j, rfl⟩ | ⟨sel, rfl⟩ <;> nofun

end Sys2Proof.Machine
end

section
/-! PROOFS. The host's queue and several instances (R47, R50): a run over queued words performs them in order, and
a word performed at one instance of a bank replaces that instance alone. -/

namespace Sys2Proof.Machine

open Sys2Proof

/-! ### Queued words -/

/-- The words are performed one by one (R47). -/
theorem performAll_cons_cases {w : Word} {ws : List Word} {s t : State}
    (h : performAll (w :: ws) s = .next t) : ∃ u, perform w s = .next u ∧ performAll ws u = .next t := by
  obtain ⟨u, hu⟩ := perform_exists_next w s
  exact ⟨u, hu, by simpa only [performAll, hu] using h⟩

/-- A step performs the first queued word and leaves the rest of the queue. -/
theorem step_of_queued {w : Word} {s u : State} (h : perform w s = .next u) (r d : Bool)
    (queue : List HostAction) :
    step (relabel .idle r d (.issue w :: queue) s) = .next (relabel .idle true true queue u) := by
  have hperform : perform w (relabel .idle r d queue s) = .next (relabel .idle r d queue u) := by
    rw [perform_relabel, h, mapNext_next]
  exact (step_of_issue rfl rfl).trans (finish_of_perform hperform)

/-- From a block that has just completed a word, as many steps as words are queued perform them in order. -/
theorem core_run_queued {ws : List Word} {s t : State} (h : performAll ws s = .next t) :
    core.run ws.length (relabel .idle true true (ws.map .issue ++ s.host) s) = .next (completed t) := by
  induction ws generalizing s with
  | nil =>
    injection h with h
    exact h ▸ rfl
  | cons w ws ih =>
    obtain ⟨u, hu, ht⟩ := performAll_cons_cases h
    obtain ⟨-, -, -, hhost, -⟩ := perform_handshake hu
    exact (core_run_succ (step_of_queued hu true true _) _).trans (hhost ▸ ih ht)

/-- Settles O42: the first step takes a word from the idle block, whatever `done` and `rst_n` were, and the later
steps each follow a completed word. -/
theorem queuedWordsRunInOrder : Obligations.QueuedWordsRunInOrder := by
  intro ws s t rest hne hp h
  cases ws with
  | nil => exact absurd rfl hne
  | cons w ws =>
    obtain ⟨u, hu, ht⟩ := performAll_cons_cases h
    obtain ⟨-, -, -, hhost, -⟩ := perform_handshake hu
    have hfirst : step { s with host := .issue w :: (ws.map .issue ++ rest) } =
        .next (relabel .idle true true (ws.map .issue ++ u.host) u) := by
      rw [hhost]
      exact hp ▸ step_of_queued hu s.rstN s.done _
    exact (core_run_succ hfirst _).trans (core_run_queued ht)

/-! ### A bank of instances -/

/-- A word at an instance of the bank replaces that instance (R50). -/
theorem performAt_of_getElem? {bank : List State} {k : Nat} {w : Word} {s t : State}
    (hs : bank[k]? = some s) (ht : perform w s = .next t) :
    performAt k w bank = .next (bank.set k t) := by
  induction bank generalizing k with
  | nil => nomatch hs
  | cons x rest ih =>
    cases k with
    | zero =>
      obtain rfl := Option.some.inj hs
      simp only [performAt, ht, List.set_cons_zero]
    | succ k => simp only [performAt, ih hs, List.set_cons_succ]

/-- A word past the bank's last instance reaches none. -/
theorem performAt_of_length_le {bank : List State} {k : Nat} (h : bank.length ≤ k) (w : Word) :
    performAt k w bank = .next bank := by
  induction bank generalizing k with
  | nil => simp only [performAt]
  | cons x rest ih =>
    obtain ⟨k, rfl⟩ := Nat.exists_eq_add_of_lt h
    simp only [performAt, ih (Nat.le_of_succ_le_succ h)]

/-- Settles O49: the bank is as it was, but for the one instance that is set. -/
theorem instancesShareNoState : Obligations.InstancesShareNoState := by
  intro k w bank bank' h
  cases hk : bank[k]? with
  | none =>
    rw [performAt_of_length_le (List.getElem?_eq_none_iff.mp hk)] at h
    injection h with h
    exact h ▸ ⟨rfl, fun _ _ => rfl, nofun⟩
  | some s =>
    obtain ⟨t, ht⟩ := perform_exists_next w s
    rw [performAt_of_getElem? hk ht] at h
    injection h with h
    subst h
    obtain ⟨hlt, -⟩ := List.getElem?_eq_some_iff.mp hk
    refine ⟨List.length_set, fun j hj => List.getElem?_set_ne hj.symm, fun s' hs' => ?_⟩
    obtain rfl := Option.some.inj hs'
    exact ⟨t, ht, List.getElem?_set_self hlt⟩

end Sys2Proof.Machine
end

section
/-! PROOFS. Encoding (R60 to R65): a word is its four fields, the commands are exactly the encoded words, and the
rows of the opcode map are those words row by row. -/

namespace Sys2Proof

/-! ### A word and its fields -/

@[simp] theorem packWord_opc (opc a b : Byte) : (packWord opc a b).opc = opc := by
  rw [Word.opc, packWord, BitVec.extractLsb'_append_eq_of_le (by decide),
    BitVec.extractLsb'_append_eq_of_le (by decide), BitVec.extractLsb'_append_eq_left]

@[simp] theorem packWord_rsv (opc a b : Byte) : (packWord opc a b).rsv = 0#8 := by
  rw [Word.rsv, packWord, BitVec.extractLsb'_append_eq_of_le (by decide),
    BitVec.extractLsb'_append_eq_of_le (by decide), BitVec.extractLsb'_append_eq_right]

@[simp] theorem packWord_opA (opc a b : Byte) : (packWord opc a b).opA = a := by
  rw [Word.opA, packWord, BitVec.extractLsb'_append_eq_of_le (by decide),
    BitVec.extractLsb'_append_eq_right]

@[simp] theorem packWord_opB (opc a b : Byte) : (packWord opc a b).opB = b :=
  BitVec.extractLsb'_append_eq_right

/-- The four fields are the whole word (R60). -/
theorem append_fields_eq (w : Word) : w.opc ++ w.rsv ++ w.opA ++ w.opB = w := by
  have hlow : w.opA ++ w.opB = w.extractLsb' 0 16 :=
    BitVec.extractLsb'_append_extractLsb'_eq_extractLsb' rfl
  have hhigh : w.opc ++ w.rsv = w.extractLsb' 16 16 :=
    BitVec.extractLsb'_append_extractLsb'_eq_extractLsb' rfl
  have hall : w.extractLsb' 16 16 ++ w.extractLsb' 0 16 = w :=
    (BitVec.extractLsb'_append_extractLsb'_eq_extractLsb' rfl).trans BitVec.extractLsb'_eq_self
  rw [BitVec.append_assoc, hlow, hhigh]
  exact hall

/-- A word is packed from given fields exactly when these are its fields and RSV is 0 (R60). -/
theorem eq_packWord_iff {w : Word} {opc a b : Byte} :
    w = packWord opc a b ↔ w.opc = opc ∧ w.rsv = 0#8 ∧ w.opA = a ∧ w.opB = b := by
  constructor
  · rintro rfl
    simp
  · rintro ⟨rfl, hrsv, rfl, rfl⟩
    rw [packWord, ← hrsv, append_fields_eq]

/-! ### The decoder -/

theorem decode_encode (i : Instr) : decode (encode i) = .instr i := by
  cases i <;> simp [encode, decode, whenAZero]

/-- A command that needs `A = 0` is decoded from its own encoding only (R65). -/
theorem eq_encode_of_whenAZero {w : Word} {i j : Instr} (h : whenAZero w j = .instr i)
    (hrsv : w.rsv = 0#8) (hj : encode j = packWord w.opc 0#8 w.opB) : w = encode i := by
  unfold whenAZero at h
  split at h
  case isTrue ha =>
    obtain rfl := Decoded.instr.inj h
    exact hj ▸ eq_packWord_iff.mpr ⟨rfl, hrsv, ha, rfl⟩
  case isFalse => nomatch h

theorem eq_encode_of_decode {w : Word} {i : Instr} (h : decode w = .instr i) : w = encode i := by
  unfold decode at h
  split_ifs at h with hrsv hgfmul hgenpoly hclear hb ha hfeed hreadrem hreadgen hreadstat
  · obtain rfl := Decoded.instr.inj h
    exact eq_packWord_iff.mpr ⟨hgfmul, not_not.mp hrsv, rfl, rfl⟩
  · exact eq_encode_of_whenAZero h (not_not.mp hrsv) (by rw [hgenpoly, encode])
  · exact eq_encode_of_whenAZero h (not_not.mp hrsv) (by rw [hclear, hb, encode])
  · exact eq_encode_of_whenAZero h (not_not.mp hrsv) (by rw [hfeed, encode])
  · exact eq_encode_of_whenAZero h (not_not.mp hrsv) (by rw [hreadrem, encode])
  · exact eq_encode_of_whenAZero h (not_not.mp hrsv) (by rw [hreadgen, encode])
  · exact eq_encode_of_whenAZero h (not_not.mp hrsv) (by rw [hreadstat, encode])

/-- The commands are exactly the encoded words (R60, R65). -/
theorem decode_eq_instr_iff {w : Word} {i : Instr} : decode w = .instr i ↔ w = encode i :=
  ⟨eq_encode_of_decode, fun h => h ▸ decode_encode i⟩

/-- A 32-bit table row is the word itself. -/
theorem tableWord_toNat (w : Word) : tableWord 32 w.toNat = w := by
  rw [tableWord, Nat.mod_eq_of_lt w.isLt, BitVec.ofNat_toNat, BitVec.setWidth_eq]

/-! ### The opcode map -/

theorem and_opc (v w : Word) : (v &&& w).opc = v.opc &&& w.opc := BitVec.extractLsb'_and
theorem and_rsv (v w : Word) : (v &&& w).rsv = v.rsv &&& w.rsv := BitVec.extractLsb'_and
theorem and_opA (v w : Word) : (v &&& w).opA = v.opA &&& w.opA := BitVec.extractLsb'_and
theorem and_opB (v w : Word) : (v &&& w).opB = v.opB &&& w.opB := BitVec.extractLsb'_and

/-- The row of GFMUL: its mask leaves out A and B (R62). -/
theorem and_maskAB_eq_iff (opc : Byte) {w : Word} :
    w &&& 0xFFFF0000#32 = packWord opc 0#8 0#8 ↔ ∃ a b, w = packWord opc a b := by
  have hfields : Word.opc 0xFFFF0000#32 = BitVec.allOnes 8 ∧ Word.rsv 0xFFFF0000#32 = BitVec.allOnes 8 ∧
      Word.opA 0xFFFF0000#32 = 0#8 ∧ Word.opB 0xFFFF0000#32 = 0#8 := by decide
  simp only [eq_packWord_iff, and_opc, and_rsv, and_opA, and_opB, hfields, BitVec.and_allOnes,
    BitVec.and_zero, and_true, exists_and_left, exists_eq']

/-- The rows with operand B: their mask leaves out B (R62). -/
theorem and_maskB_eq_iff (opc : Byte) {w : Word} :
    w &&& 0xFFFFFF00#32 = packWord opc 0#8 0#8 ↔ ∃ b, w = packWord opc 0#8 b := by
  have hfields : Word.opc 0xFFFFFF00#32 = BitVec.allOnes 8 ∧ Word.rsv 0xFFFFFF00#32 = BitVec.allOnes 8 ∧
      Word.opA 0xFFFFFF00#32 = BitVec.allOnes 8 ∧ Word.opB 0xFFFFFF00#32 = 0#8 := by decide
  simp only [eq_packWord_iff, and_opc, and_rsv, and_opA, and_opB, hfields, BitVec.and_allOnes,
    BitVec.and_zero, and_true, exists_and_left, exists_eq']

/-- A row of the map fixes the whole of OPC. -/
theorem opc_of_holds {row : OpcodeRow} (hrow : row ∈ opcodeMap) {w : Word} (h : row.holds w = true) :
    w.opc = row.matchBits.opc := by
  have hmask : ∀ row ∈ opcodeMap, row.mask.opc = BitVec.allOnes 8 := by decide
  rw [← beq_iff_eq.mp h, and_opc, hmask row hrow, BitVec.and_allOnes]

theorem opcodeMap_pairwise_disjoint (w : Word) :
    opcodeMap.Pairwise fun a b => ¬ (a.holds w = true ∧ b.holds w = true) := by
  have hopc : opcodeMap.Pairwise fun a b => a.matchBits.opc ≠ b.matchBits.opc := by decide
  refine hopc.imp_of_mem fun ha hb hne ⟨hwa, hwb⟩ => hne ?_
  rw [← opc_of_holds ha hwa, opc_of_holds hb hwb]

/-- Every command's word is in the row of its mnemonic (R62). -/
theorem exists_row_encode (i : Instr) : ∃ row ∈ opcodeMap,
    row.mnemonic = i.source.mnemonic ∧ encode i &&& row.mask = row.matchBits := by
  cases i with
  | gfmul a b =>
    exact ⟨opcodeMap[0], List.getElem_mem _, rfl, (and_maskAB_eq_iff 0x01#8).mpr ⟨a, b, rfl⟩⟩
  | genpoly n => exact ⟨opcodeMap[1], List.getElem_mem _, rfl, (and_maskB_eq_iff 0x02#8).mpr ⟨n, rfl⟩⟩
  | clear => exact ⟨opcodeMap[2], List.getElem_mem _, rfl, rfl⟩
  | feed d => exact ⟨opcodeMap[3], List.getElem_mem _, rfl, (and_maskB_eq_iff 0x04#8).mpr ⟨d, rfl⟩⟩
  | readrem j => exact ⟨opcodeMap[4], List.getElem_mem _, rfl, (and_maskB_eq_iff 0x05#8).mpr ⟨j, rfl⟩⟩
  | readgen j => exact ⟨opcodeMap[5], List.getElem_mem _, rfl, (and_maskB_eq_iff 0x06#8).mpr ⟨j, rfl⟩⟩
  | readstat sel =>
    exact ⟨opcodeMap[6], List.getElem_mem _, rfl, (and_maskB_eq_iff 0x07#8).mpr ⟨sel, rfl⟩⟩

/-- Every word in a row is a command's word (R62). -/
theorem exists_eq_encode_of_row {row : OpcodeRow} (hrow : row ∈ opcodeMap) {w : Word}
    (h : w &&& row.mask = row.matchBits) : ∃ i, w = encode i := by
  simp only [opcodeMap, List.mem_cons, List.not_mem_nil, or_false] at hrow
  rcases hrow with rfl | rfl | rfl | rfl | rfl | rfl | rfl
  · obtain ⟨a, b, hw⟩ := (and_maskAB_eq_iff 0x01#8).mp h
    exact ⟨.gfmul a b, hw⟩
  · obtain ⟨n, hw⟩ := (and_maskB_eq_iff 0x02#8).mp h
    exact ⟨.genpoly n, hw⟩
  · exact ⟨.clear, (BitVec.and_allOnes (x := w)).symm.trans h⟩
  · obtain ⟨d, hw⟩ := (and_maskB_eq_iff 0x04#8).mp h
    exact ⟨.feed d, hw⟩
  · obtain ⟨j, hw⟩ := (and_maskB_eq_iff 0x05#8).mp h
    exact ⟨.readrem j, hw⟩
  · obtain ⟨j, hw⟩ := (and_maskB_eq_iff 0x06#8).mp h
    exact ⟨.readgen j, hw⟩
  · obtain ⟨sel, hw⟩ := (and_maskB_eq_iff 0x07#8).mp h
    exact ⟨.readstat sel, hw⟩

/-- A word is a command exactly when it is in a row (R62). -/
theorem exists_decode_iff_exists_row (w : Word) :
    (∃ i, decode w = .instr i) ↔ ∃ row ∈ opcodeMap, w &&& row.mask = row.matchBits := by
  simp only [decode_eq_instr_iff]
  constructor
  · rintro ⟨i, rfl⟩
    obtain ⟨row, hrow, -, h⟩ := exists_row_encode i
    exact ⟨row, hrow, h⟩
  · rintro ⟨row, hrow, h⟩
    exact exists_eq_encode_of_row hrow h

/-! ### The statements -/

/-- Settles O6: `decode_encode`, and the table's numbering is the word's own. -/
theorem decodeInvertsEncode : Obligations.DecodeInvertsEncode := by
  intro i
  refine ⟨decode_encode i, ?_⟩
  rw [decodeTableWord, tableWord_toNat, decode_encode, Decoded.instr?]

/-- Settles O7. -/
theorem encodeInvertsDecode : Obligations.EncodeInvertsDecode :=
  fun _ _ h => (eq_encode_of_decode h).symm

/-- Settles O8: the rows hold exactly the encoded words, and two rows differ in OPC. -/
theorem opcodeMapIsExactAndDisjoint : Obligations.OpcodeMapIsExactAndDisjoint := by
  refine ⟨fun w => (exists_decode_iff_exists_row w).trans ?_, opcodeMap_pairwise_disjoint,
    exists_row_encode⟩
  simp only [opcodeMap, List.exists_mem_cons_iff, List.not_mem_nil, false_and, exists_false, or_false]

/-- Settles O10: the seven commands are encoded words, and the six illegal words are decoded. -/
theorem sampleWordsDecode : Obligations.SampleWordsDecode :=
  ⟨decode_encode (.gfmul 0xFF#8 0xFF#8), decode_encode (.genpoly 22#8), decode_encode .clear,
    decode_encode (.feed 0xEC#8), decode_encode (.readrem 21#8), decode_encode (.readgen 255#8),
    decode_encode (.readstat 2#8), by decide⟩

end Sys2Proof
end

section
/-! PROOFS. The assembler (R67, R68): which source lines it takes, what each command's line and each
pseudo-instruction expands to, and how the operand of the last GENPOLY reaches the RSBLOCK lines. -/

namespace Sys2Proof

/-! ### Source lines -/

/-- Every command's source line passes the assembler's checks (R61, R67). -/
theorem source_wellFormed (i : Instr) : i.source.wellFormed = true := by
  cases i with
  | gfmul a b => exact Laws.WellFormed.gfmul a b
  | genpoly n => exact Laws.WellFormed.genpoly n
  | clear => exact Laws.WellFormed.clear
  | feed d => exact Laws.WellFormed.feed d
  | readrem j => exact Laws.WellFormed.readrem j
  | readgen j => exact Laws.WellFormed.readgen j
  | readstat sel => exact Laws.WellFormed.readstat sel

theorem expandLine_of_not_wellFormed {l : SourceLine} (h : l.wellFormed = false)
    (lastN : Option Byte) : expandLine lastN l = none := by
  simp [expandLine, h]

theorem expandLine_source (i : Instr) (lastN : Option Byte) :
    expandLine lastN i.source = some [i] := by
  unfold expandLine
  rw [if_pos (source_wellFormed i)]
  cases i <;> simp [Instr.source]

/-- A line with an operand above 255 fails the range check (R67). -/
theorem rangeOk_eq_false {l : SourceLine} (h : ∃ v ∈ l.operands, 255 < v) : l.rangeOk = false := by
  simpa [SourceLine.rangeOk] using h

/-- Settles O50: a command's line is well formed and expands to it; a wrong count or range is not well formed. -/
theorem assemblerTakesEveryCommand : Obligations.AssemblerTakesEveryCommand := by
  refine ⟨expandLine_source, fun l lastN h => expandLine_of_not_wellFormed ?_ lastN⟩
  rcases h with hcount | hrange
  · rw [SourceLine.wellFormed, hcount, Bool.false_and]
  · rw [SourceLine.wellFormed, rangeOk_eq_false hrange, Bool.and_false]

/-! ### Pseudo-instructions -/

/-- A block's line takes any number of data bytes (R68). -/
theorem rsblock_wellFormed (data : List Byte) :
    (⟨.rsblock, data.map BitVec.toNat⟩ : SourceLine).wellFormed = true := by
  simp [SourceLine.wellFormed, SourceLine.countOk, SourceLine.rangeOk, Mnemonic.arity,
    Laws.WellFormed.byte_le]

/-- The assembler's reading of byte operands gives the bytes back. -/
theorem map_ofNat_map_toNat (data : List Byte) :
    (data.map BitVec.toNat).map (BitVec.ofNat 8) = data := by
  simp [Function.comp_def]

theorem expandLine_rsblock (n : Byte) (data : List Byte) :
    expandLine (some n) ⟨.rsblock, data.map BitVec.toNat⟩ = some (rsBlock n data) := by
  unfold expandLine
  rw [if_pos (rsblock_wellFormed data), map_ofNat_map_toNat]

/-- RSBLOCK needs a GENPOLY before it (R68). -/
theorem expandLine_rsblock_none (data : List Nat) : expandLine none ⟨.rsblock, data⟩ = none := by
  simp [expandLine]

theorem expandLine_rssymbol (lastN : Option Byte) (n : Byte) :
    expandLine lastN ⟨.rssymbol, [n.toNat]⟩ = some [.genpoly n] := by
  have hwf : (⟨.rssymbol, [n.toNat]⟩ : SourceLine).wellFormed = true := Laws.WellFormed.genpoly n
  unfold expandLine
  rw [if_pos hwf]
  simp

/-- Commands other than GENPOLY leave the last GENPOLY's operand. -/
theorem lastGenpoly_of_forall_ne {before : Option Byte} {is : List Instr}
    (h : ∀ i ∈ is, ∀ n, i ≠ .genpoly n) : lastGenpoly before is = before := by
  induction is with
  | nil => rfl
  | cons i is ih =>
    obtain ⟨hi, his⟩ := List.forall_mem_cons.mp h
    cases i with
    | genpoly n => exact absurd rfl (hi n)
    | _ => exact ih his

/-- A block issues no GENPOLY. -/
theorem lastGenpoly_rsBlock (before : Option Byte) (n : Byte) (data : List Byte) :
    lastGenpoly before (rsBlock n data) = before := by
  refine lastGenpoly_of_forall_ne fun i hi n => ?_
  simp only [rsBlock, readRemainder, List.cons_append, List.mem_cons, List.mem_append, List.mem_map] at hi
  rcases hi with rfl | ⟨d, -, rfl⟩ | ⟨j, -, rfl⟩ <;> nofun

theorem assemble_rsblocks (n : Byte) (blocks : List (List Byte)) :
    assemble (some n) (blocks.map fun b => ⟨.rsblock, b.map BitVec.toNat⟩) =
      some (blocks.flatMap (rsBlock n)) := by
  induction blocks with
  | nil => rfl
  | cons b bs ih => simp [assemble, expandLine_rsblock, lastGenpoly_rsBlock, ih]

theorem assemble_rssymbol (lastN : Option Byte) (n : Byte) (blocks : List (List Byte)) :
    assemble lastN (⟨.rssymbol, [n.toNat]⟩ :: blocks.map fun b => ⟨.rsblock, b.map BitVec.toNat⟩) =
      some (rsSymbol n blocks) := by
  simp [assemble, expandLine_rssymbol, lastGenpoly, assemble_rsblocks, rsSymbol]

/-- Settles O51: RSSYMBOL's GENPOLY is the last one for each block line, since no block issues another. -/
theorem pseudoInstructionsExpand : Obligations.PseudoInstructionsExpand :=
  ⟨fun _ => ⟨rfl, rfl, rfl⟩, expandLine_rsblock, expandLine_rsblock_none, assemble_rssymbol⟩

end Sys2Proof
end

section
/-! PROOFS. The remainder division (R42, R122, R125 a): one FEED adds a multiple of the generator to the block read
so far and its register, so the fed data and the register vanish together at every root of the generator. -/

namespace Sys2Proof

open Sys2Proof.Machine

/-! ### Values of polynomials -/

/-- The product is associative with ALPHA as one factor. -/
theorem gfMul_mul_alpha (a b : Byte) :
    gfMul (gfMul a b) Config.alpha = gfMul a (gfMul b Config.alpha) := by
  induction a using byte_xor_induction with
  | zero => simp only [gfMul_zero_left]
  | xor a₁ a₂ h₁ h₂ => simp only [gfMul_xor_left, h₁, h₂]
  | bit i hi =>
    induction b using byte_xor_induction with
    | zero => simp only [gfMul_zero_left, gfMul_zero_right]
    | xor b₁ b₂ h₁ h₂ => simp only [gfMul_xor_left, gfMul_xor_right, h₁, h₂]
    | bit j hj => revert i j; decide +kernel

theorem gfMul_mul_alphaPow (a b : Byte) (k : Nat) :
    gfMul (gfMul a b) (alphaPow k) = gfMul a (gfMul b (alphaPow k)) := by
  induction k with
  | zero => simp only [alphaPow, gfMul_comm _ 1#8, gfMul_one_left]
  | succ k ih => rw [alphaPow, ← gfMul_mul_alpha, ih, gfMul_mul_alpha, gfMul_mul_alpha]

/-- The single-bit bytes are the first powers of ALPHA. -/
theorem bit_eq_alphaPow {i : Nat} (h : i < 8) : 1#8 <<< i = alphaPow i := by
  revert i; decide

/-- The product is associative (R84). -/
theorem gfMul_assoc (a b c : Byte) : gfMul (gfMul a b) c = gfMul a (gfMul b c) := by
  induction c using byte_xor_induction with
  | zero => simp only [gfMul_zero_right]
  | bit k hk => rw [bit_eq_alphaPow hk, gfMul_mul_alphaPow]
  | xor c₁ c₂ h₁ h₂ => simp only [gfMul_xor_right, h₁, h₂]

theorem eval_add (x : Byte) (p q : Poly) :
    Poly.eval x (Poly.add p q) = Poly.eval x p ^^^ Poly.eval x q := by
  induction p generalizing q with
  | nil => simp [Poly.add, Poly.eval]
  | cons a p ih =>
    cases q with
    | nil => simp [Poly.add, Poly.eval]
    | cons b q =>
      simp only [Poly.add, Poly.eval, gfAdd, ih, gfMul_xor_right]
      ac_rfl

theorem eval_map_gfMul (x a : Byte) (p : Poly) :
    Poly.eval x (p.map (gfMul a)) = gfMul a (Poly.eval x p) := by
  induction p with
  | nil => simp [Poly.eval]
  | cons b p ih =>
    have hcomm : gfMul x (gfMul a (Poly.eval x p)) = gfMul a (gfMul x (Poly.eval x p)) := by
      rw [← gfMul_assoc, gfMul_comm x a, gfMul_assoc]
    simp only [List.map_cons, Poly.eval, gfAdd, ih, gfMul_xor_right, hcomm]

/-- The value of `x·p`. -/
theorem eval_zero_cons (x : Byte) (p : Poly) :
    Poly.eval x (0#8 :: p) = gfMul x (Poly.eval x p) := BitVec.zero_xor

theorem eval_mul_linear (x root : Byte) {q : Poly} (hq : q ≠ []) :
    Poly.eval x (Poly.mul [root, 0x01#8] q) = gfMul (root ^^^ x) (Poly.eval x q) := by
  rw [mul_root_factor root hq, eval_add, eval_map_gfMul, eval_zero_cons, gfMul_xor_left]

theorem generatorPoly_ne_nil (n : Nat) : generatorPoly n ≠ [] := by
  obtain ⟨cs, hpoly, -⟩ := mulByRoots_eq_generatorPoly n
  simp [hpoly, Poly.ofHighFirst]

/-- The generator vanishes at its roots (R100). -/
theorem eval_generatorPoly_alphaPow {n i : Nat} (h : i < n) :
    Poly.eval (alphaPow i) (generatorPoly n) = 0#8 := by
  induction n with
  | zero => exact absurd h (Nat.not_lt_zero i)
  | succ n ih =>
    rw [generatorPoly, eval_mul_linear _ _ (generatorPoly_ne_nil n)]
    rcases Nat.lt_succ_iff_lt_or_eq.mp h with hlt | rfl
    · rw [ih hlt, gfMul_zero_right]
    · rw [BitVec.xor_self, gfMul_zero_left]

/-! ### One FEED as a division step -/

/-- FEED on files of `n` cells (R122). -/
theorem feedCells_cons {n : Nat} {g rs : List Byte} (hg : g.length = n) (hr : rs.length + 1 = n)
    (d r₀ : Byte) :
    feedCells n d g (r₀ :: rs) = List.zipWith gfAdd (g.map (gfMul (d ^^^ r₀))) (rs ++ [0#8]) := by
  have hshift : shiftIn n (r₀ :: rs) = rs ++ [0#8] := by simp [shiftIn, ← hr]
  have htake : (rs ++ [0#8]).take n = rs ++ [0#8] := List.take_of_length_le (by simp [hr])
  have hdrop : (rs ++ [0#8]).drop n = [] := List.drop_of_length_le (by simp [hr])
  rw [feedCells, hshift, addScaled, htake, hdrop, List.take_of_length_le hg.le, List.append_nil,
    List.zipWith_map_left, List.zipWith_comm]
  simp only [cell_cons_zero, gfAdd, BitVec.xor_comm, gfMul_comm]

/-- Polynomials of one length are added cell by cell. -/
theorem poly_add_eq_zipWith {p q : Poly} (h : p.length = q.length) :
    Poly.add p q = List.zipWith gfAdd p q := by
  induction p generalizing q with
  | nil => obtain rfl := List.eq_nil_of_length_eq_zero h.symm; rfl
  | cons a p ih =>
    cases q with
    | nil => cases h
    | cons b q => exact congrArg _ (ih (Nat.succ.inj h))

/-- The block read so far, the next byte and the new register are the old block and register, moved up by one
cell, plus a multiple of the generator (R122, R123). -/
theorem ofHighFirst_append_feedCells {n : Nat} {g r : List Byte} (h1 : 1 ≤ n) (hg : g.length = n)
    (hr : r.length = n) (block : List Byte) (d : Byte) :
    Poly.ofHighFirst (block ++ d :: feedCells n d g r) =
      Poly.add ((Poly.ofHighFirst (0x01#8 :: g)).map (gfMul (d ^^^ cell r 0)))
        (0#8 :: Poly.ofHighFirst (block ++ r)) := by
  cases r with
  | nil => exact absurd h1 (hr ▸ Nat.not_succ_le_zero 0)
  | cons r₀ rs =>
    have hlen : (g.map (gfMul (d ^^^ r₀))).length = (rs ++ [0#8]).length := by simp [hg, ← hr]
    have hnew : (feedCells n d g (r₀ :: rs)).reverse =
        Poly.add (g.map (gfMul (d ^^^ r₀))).reverse (rs ++ [0#8]).reverse := by
      rw [feedCells_cons hg hr, List.reverse_zipWith hlen, poly_add_eq_zipWith (by simpa using hlen)]
    have hsum := poly_add_append (by simpa using hlen : (g.map (gfMul (d ^^^ r₀))).reverse.length =
      (rs ++ [0#8]).reverse.length) [d ^^^ r₀] (r₀ :: block.reverse)
    have htop : d ^^^ r₀ ^^^ r₀ = d := by rw [BitVec.xor_assoc, BitVec.xor_self, BitVec.xor_zero]
    rw [← hnew] at hsum
    simpa [Poly.ofHighFirst, Poly.add, gfAdd, gfMul_comm _ 1#8, htop] using hsum.symm

/-! ### A whole block -/

/-- R after FEEDs of a block of bytes (R122). -/
def feedBlock (n : Nat) (g : List Byte) : List Byte → List Byte → List Byte
  | r, [] => r
  | r, d :: ds => feedBlock n g (feedCells n d g r) ds

theorem feedBlock_length {n : Nat} {g r : List Byte} (h1 : 1 ≤ n) (hg : n ≤ g.length)
    (hr : n ≤ r.length) (data : List Byte) : (feedBlock n g r data).length = r.length := by
  induction data generalizing r with
  | nil => rfl
  | cons d ds ih =>
    have hlen := feedCells_length (d := d) h1 hg hr
    exact (ih (hlen.symm ▸ hr)).trans hlen

/-- FEEDs work on the active cells only (R122). -/
theorem take_feedBlock {n : Nat} {g r : List Byte} (h1 : 1 ≤ n) (hg : n ≤ g.length)
    (hr : n ≤ r.length) (data : List Byte) :
    (feedBlock n g r data).take n = feedBlock n (g.take n) (r.take n) data := by
  induction data generalizing r with
  | nil => rfl
  | cons d ds ih =>
    have hlen := feedCells_length (d := d) h1 hg hr
    rw [feedBlock, ih (hlen.symm ▸ hr), take_feedCells h1 hg hr, feedBlock]

/-- FEEDs keep a root of the generator a root of the block and its register (R125 a). -/
theorem eval_append_feedBlock {n : Nat} {g r : List Byte} {x : Byte} (h1 : 1 ≤ n) (hg : g.length = n)
    (hr : r.length = n) (hroot : Poly.eval x (Poly.ofHighFirst (0x01#8 :: g)) = 0#8) {block : List Byte}
    (hblock : Poly.eval x (Poly.ofHighFirst (block ++ r)) = 0#8) (data : List Byte) :
    Poly.eval x (Poly.ofHighFirst (block ++ data ++ feedBlock n g r data)) = 0#8 := by
  induction data generalizing r block with
  | nil => rwa [List.append_nil, feedBlock]
  | cons d ds ih =>
    have hlen := (feedCells_length (d := d) h1 hg.ge hr.ge).trans hr
    have hstep : Poly.eval x (Poly.ofHighFirst (block ++ [d] ++ feedCells n d g r)) = 0#8 := by
      rw [List.append_assoc, List.singleton_append, ofHighFirst_append_feedCells h1 hg hr, eval_add,
        eval_map_gfMul, eval_zero_cons, hroot, hblock, gfMul_zero_right, gfMul_zero_right,
        BitVec.xor_self]
    have hrest := ih hlen hstep
    rwa [List.append_assoc block, List.singleton_append] at hrest

theorem eval_zeroCells (x : Byte) (n : Nat) : Poly.eval x (zeroCells n) = 0#8 := by
  induction n with
  | zero => rfl
  | succ n ih =>
    rw [zeroCells, List.replicate_succ, ← zeroCells, eval_zero_cons, ih, gfMul_zero_right]

end Sys2Proof
end

section
/-! PROOFS. A run of an RSBLOCK (R10, R68): the states and RESULTs of its CLEAR, FEED and READREM words, one after
another, from any unfaulted state with a generator. -/

namespace Sys2Proof.Machine

open Sys2Proof

/-! ### Runs of words -/

/-- The words are performed in order from the first state to the second, leaving the listed RESULTs (R10, R47). -/
inductive Runs : List Word → State → List Byte → State → Prop
  | nil (s : State) : Runs [] s [] s
  | cons {w : Word} {ws : List Word} {s u t : State} {results : List Byte} :
      perform w s = .next u → Runs ws u results t → Runs (w :: ws) s (u.result :: results) t

theorem Runs.performAll_eq {ws : List Word} {s t : State} {results : List Byte}
    (h : Runs ws s results t) : performAll ws s = .next t := by
  induction h with
  | nil => rfl
  | cons hw _ ih => simp only [performAll, hw, ih]

theorem Runs.observe_eq {ws : List Word} {s t : State} {results : List Byte}
    (h : Runs ws s results t) : observe ws s = .next ⟨results, t.fault, t.cause⟩ := by
  induction h with
  | nil => rfl
  | cons hw _ ih => simp only [observe, hw, ih]

theorem Runs.inv {ws : List Word} {s t : State} {results : List Byte} (h : Runs ws s results t)
    (hs : s.Inv) : t.Inv := by
  induction h with
  | nil => exact hs
  | cons hw _ ih => exact ih (perform_inv hw hs)

theorem Runs.append {ws ws' : List Word} {s u t : State} {results results' : List Byte}
    (h : Runs ws s results u) (h' : Runs ws' u results' t) :
    Runs (ws ++ ws') s (results ++ results') t := by
  induction h with
  | nil => exact h'
  | cons hw _ ih => exact .cons hw (ih h')

/-- A command's word has each of the command's effects. -/
theorem perform_encode_of_effect {i : Instr} {s t : State} (h : Effect i s t) :
    perform (encode i) s = .next t :=
  (perform_of_instr (decode_encode i) s).trans (exec_of_effect h)

/-! ### The words of a block -/

/-- FEEDs leave the whole block's register and touch RESULT at no word (R122). -/
theorem runs_feedWords {s : State} (hf : s.fault = false) (hd : s.deg ≠ 0#8) (data : List Byte) :
    Runs (feedWords data) s (List.replicate data.length s.result)
      { s with r := feedBlock s.deg.toNat s.g s.r data } := by
  induction data generalizing s with
  | nil => exact .nil s
  | cons d ds ih =>
    have hstep := perform_encode_of_effect (.feed d s hf hd)
    have hrest := ih (s := { s with r := feedCells s.deg.toNat d s.g s.r }) hf hd
    exact (Runs.cons hstep hrest :)

/-- READREMs of legal indices answer those cells and change RESULT alone (R124). -/
theorem runs_readrems {s : State} (hf : s.fault = false) {js : List Nat}
    (hjs : ∀ j ∈ js, j < s.deg.toNat) :
    ∃ v, Runs (js.map fun j => encode (.readrem (BitVec.ofNat 8 j))) s (js.map (cell s.r))
      (setResult v s) := by
  induction js generalizing s with
  | nil => exact ⟨s.result, .nil s⟩
  | cons j js ih =>
    obtain ⟨hj, hjs⟩ := List.forall_mem_cons.mp hjs
    have hindex : (BitVec.ofNat 8 j).toNat = j := by
      rw [BitVec.toNat_ofNat, Nat.mod_eq_of_lt (hj.trans s.deg.isLt)]
    have hstep := perform_encode_of_effect (.readrem (BitVec.ofNat 8 j) s hf (hindex.symm ▸ hj))
    rw [hindex] at hstep
    obtain ⟨v, hrest⟩ := ih (s := setResult (cell s.r j) s) hf hjs
    exact ⟨v, .cons hstep hrest⟩

/-- The first cells of a file. -/
theorem map_cell_range {file : List Byte} {n : Nat} (h : n ≤ file.length) :
    (List.range n).map (cell file) = file.take n := by
  refine List.ext_getElem (by simpa using h) fun j hj _ => ?_
  have hlt : j < file.length := by simp at hj; omega
  simp [cell, hlt]

theorem rsBlock_map_encode (n : Byte) (data : List Byte) :
    (rsBlock n data).map encode = encode .clear :: (feedWords data ++
      (List.range n.toNat).map fun j => encode (.readrem (BitVec.ofNat 8 j))) := by
  simp [rsBlock, readRemainder, feedWords, Function.comp_def]

/-- The register after CLEAR and the FEEDs of a block (R121, R122). -/
def clearedFeed (s : State) (data : List Byte) : List Byte :=
  feedBlock s.deg.toNat s.g (zeroCells s.nmax.toNat) data

section Block
variable {s : State} (hs : s.Inv) (h1 : 1 ≤ s.deg.toNat)
include hs h1

theorem clearedFeed_length (data : List Byte) : (clearedFeed s data).length = s.nmax.toNat := by
  obtain ⟨-, hg, -⟩ := hs.sized
  have hzero := zeroCells_length s.nmax.toNat
  exact (feedBlock_length h1 (hs.degLe.trans_eq hg.symm) (hs.degLe.trans_eq hzero.symm) data).trans hzero

/-- An RSBLOCK reads the active cells of the block's register and changes R and RESULT alone (R68, R124). -/
theorem runs_rsBlock (hf : s.fault = false) (data : List Byte) :
    ∃ v, Runs ((rsBlock s.deg data).map encode) s
      (s.result :: (List.replicate data.length s.result ++ (clearedFeed s data).take s.deg.toNat))
      (setResult v { s with r := clearedFeed s data }) := by
  have hd : s.deg ≠ 0#8 := fun h0 => by simp [h0] at h1
  have hclear := perform_encode_of_effect (.clear s hf)
  have hfeeds := runs_feedWords (s := { s with r := zeroCells s.nmax.toNat }) hf hd data
  obtain ⟨v, hreads⟩ := runs_readrems (s := { s with r := clearedFeed s data }) hf
    (js := List.range s.deg.toNat) fun j hj => List.mem_range.mp hj
  rw [map_cell_range (hs.degLe.trans_eq (clearedFeed_length hs h1 data).symm)] at hreads
  rw [rsBlock_map_encode]
  exact ⟨v, (Runs.cons hclear (hfeeds.append hreads) :)⟩

/-- The data and the register's active cells vanish at the generator's roots (R125 a). -/
theorem eval_append_take_clearedFeed (data : List Byte) {i : Nat} (hi : i < s.deg.toNat) :
    Poly.eval (alphaPow i)
      (Poly.ofHighFirst (data ++ (clearedFeed s data).take s.deg.toNat)) = 0#8 := by
  obtain ⟨-, hg, -⟩ := hs.sized
  have hlen := hs.degLe.trans_eq hg.symm
  have hzero : (zeroCells s.nmax.toNat).take s.deg.toNat = zeroCells s.deg.toNat := by
    rw [zeroCells, List.take_replicate, Nat.min_eq_left hs.degLe, zeroCells]
  have hroot : Poly.eval (alphaPow i) s.heldGenerator = 0#8 := by
    rw [hs.generator h1, eval_generatorPoly_alphaPow hi]
  have hstart : Poly.eval (alphaPow i) (Poly.ofHighFirst ([] ++ zeroCells s.deg.toNat)) = 0#8 := by
    rw [List.nil_append, Poly.ofHighFirst, zeroCells, List.reverse_replicate]
    exact eval_zeroCells _ _
  rw [clearedFeed, take_feedBlock h1 hlen (hs.degLe.trans_eq (zeroCells_length _).symm), hzero]
  exact eval_append_feedBlock h1 (List.length_take_of_le hlen) (zeroCells_length _) hroot
    hstart data

end Block

/-! ### The statement -/

/-- Settles O31: the last n RESULTs of the block's run are the active cells, which complete the data to a
codeword. -/
theorem rsblockReadsTheCodewords : Obligations.RsblockReadsTheCodewords := by
  intro s data hs hf h1
  obtain ⟨v, hrun⟩ := runs_rsBlock hs h1 hf data
  have hlen : ((clearedFeed s data).take s.deg.toNat).length = s.deg.toNat :=
    List.length_take_of_le (hs.degLe.trans_eq (clearedFeed_length hs h1 data).symm)
  refine ⟨_, _, hrun.observe_eq, hrun.performAll_eq, hf, ?length, fun i hi => ?codeword, rfl,
    hrun.inv hs⟩
  case length => simp [hlen]; omega
  case codeword =>
    have hlast : (s.result :: (List.replicate data.length s.result ++
        (clearedFeed s data).take s.deg.toNat)).drop (1 + data.length) =
          (clearedFeed s data).take s.deg.toNat := by
      rw [Nat.add_comm, List.drop_succ_cons, List.drop_left' List.length_replicate]
    rw [hlast]
    exact eval_append_take_clearedFeed hs h1 data hi

end Sys2Proof.Machine
end

section
/-! PROOFS. The products of R81 to R83: the carry-less product bit by bit, the multiple of PRIM_POLY that its
reduction adds, and the bit-serial form, compared on single-bit operands since all of them are additive. -/

namespace Sys2Proof

/-! ### The carry-less product (R81) -/

/-- One shift of the convolution: bit `k` of `z + x^i·a` when the multiplier bit is set. -/
theorem getLsbD_xor_shift {k : Nat} (hk : k < 15) (a : Byte) (bit : Bool) (z : BitVec 15) (i : Nat) :
    (if bit then z ^^^ (a.setWidth 15 <<< i) else z).getLsbD k =
      (z.getLsbD k ^^ (decide (i ≤ k) && a.getLsbD (k - i) && bit)) := by
  have hle : (!decide (k < i)) = decide (i ≤ k) :=
    decide_not.symm.trans (decide_eq_decide.mpr Nat.not_lt)
  cases bit with
  | false => simp
  | true => simp [hk, hle]

/-- Settles O11: reading bit `k` turns the loop of shifts into the sum of their bits. -/
theorem carrylessProductConvolvesBits : Obligations.CarrylessProductConvolvesBits := by
  intro a b k hk
  rw [← BitVec.getLsbD_zero (w := 15) (i := k)]
  refine Eq.symm (List.foldl_hom (BitVec.getLsbD · k) fun z i => ?_)
  exact (getLsbD_xor_shift hk a (b.getLsbD i) z i).symm

/-! ### Additivity in both operands -/

/-- A product that distributes over sums in each operand. -/
structure Biadditive {n : Nat} (f : Byte → Byte → BitVec n) : Prop where
  xor_left : ∀ a b c, f (a ^^^ b) c = f a c ^^^ f b c
  xor_right : ∀ a b c, f a (b ^^^ c) = f a b ^^^ f a c

section Biadditive

variable {n : Nat} {f g : Byte → Byte → BitVec n} (hf : Biadditive f) (hg : Biadditive g)
include hf

theorem Biadditive.zero_left (b : Byte) : f 0#8 b = 0#n := by
  simpa using hf.xor_left 0#8 0#8 b

theorem Biadditive.zero_right (a : Byte) : f a 0#8 = 0#n := by
  simpa using hf.xor_right a 0#8 0#8

include hg

/-- Two such products are equal if they agree on the single-bit bytes. -/
theorem Biadditive.eq_of_bits
    (h : ∀ i < 8, ∀ j < 8, f (1#8 <<< i) (1#8 <<< j) = g (1#8 <<< i) (1#8 <<< j)) (a b : Byte) :
    f a b = g a b := by
  induction a using byte_xor_induction with
  | zero => rw [hf.zero_left, hg.zero_left]
  | xor a₁ a₂ h₁ h₂ => rw [hf.xor_left, hg.xor_left, h₁, h₂]
  | bit i hi =>
    induction b using byte_xor_induction with
    | zero => rw [hf.zero_right, hg.zero_right]
    | xor b₁ b₂ h₁ h₂ => rw [hf.xor_right, hg.xor_right, h₁, h₂]
    | bit j hj => exact h i hi j hj

end Biadditive

theorem biadditive_gfMul : Biadditive gfMul := ⟨gfMul_xor_left, gfMul_xor_right⟩

/-! ### Reduction modulo PRIM_POLY (R82) -/

/-- `q·0x11D = q·x^8 + q·0x1D`. -/
def primMultiple (q : Byte) : BitVec 15 := clmul q 0x1D#8 ^^^ (q.setWidth 15 <<< 8)

theorem primMultiple_xor (p q : Byte) :
    primMultiple (p ^^^ q) = primMultiple p ^^^ primMultiple q := by
  simp only [primMultiple, clmul_xor_left, BitVec.setWidth_xor, BitVec.shiftLeft_xor_distrib]
  ac_rfl

/-- What the reduction loop adds at bit `i` is a multiple of PRIM_POLY by one bit. -/
theorem primMultiple_bit : ∀ i ∈ [14, 13, 12, 11, 10, 9, 8],
    (1#8 <<< (i - 8)).toNat < 2 ^ 7 ∧
      Config.primPoly.setWidth 15 <<< (i - 8) = primMultiple (1#8 <<< (i - 8)) := by decide

/-- The reduction adds a multiple of PRIM_POLY by a polynomial of degree below 7. -/
theorem reducePrim_eq_add_multiple (z : BitVec 15) :
    ∃ q : Byte, q.toNat < 2 ^ 7 ∧ reducePrim z = z ^^^ primMultiple q := by
  refine List.foldlRecOn (motive := fun w => ∃ q : Byte, q.toNat < 2 ^ 7 ∧ w = z ^^^ primMultiple q)
    _ _ ⟨0#8, by decide, BitVec.xor_zero.symm⟩ fun w ⟨q, hq, hw⟩ i hi => ?_
  obtain ⟨hbit, hshift⟩ := primMultiple_bit i hi
  split
  case isFalse => exact ⟨q, hq, hw⟩
  case isTrue =>
    refine ⟨q ^^^ 1#8 <<< (i - 8), BitVec.toNat_xor .. ▸ Nat.xor_lt_two_pow hq hbit, ?_⟩
    rw [hw, hshift, primMultiple_xor, BitVec.xor_assoc]

/-- The reduced product has no bit above 7, so `gfMul` cuts off nothing. -/
theorem setWidth_gfMul (a b : Byte) : (gfMul a b).setWidth 15 = reducePrim (clmul a b) := by
  have hcut : Biadditive fun a b => (gfMul a b).setWidth 15 :=
    ⟨fun a b c => by rw [gfMul_xor_left, BitVec.setWidth_xor],
      fun a b c => by rw [gfMul_xor_right, BitVec.setWidth_xor]⟩
  have hred : Biadditive fun a b => reducePrim (clmul a b) :=
    ⟨fun a b c => by rw [clmul_xor_left, reducePrim_xor],
      fun a b c => by rw [clmul_xor_right, reducePrim_xor]⟩
  exact hcut.eq_of_bits hred (by decide) a b

/-- Settles O12: the quotient is what the reduction loop adds. -/
theorem fieldProductReducesByPrimPoly : Obligations.FieldProductReducesByPrimPoly := by
  intro a b
  obtain ⟨q, hq, hred⟩ := reducePrim_eq_add_multiple (clmul a b)
  refine ⟨q, hq, ?_⟩
  rw [setWidth_gfMul, hred, BitVec.xor_assoc, ← primMultiple, BitVec.xor_assoc, BitVec.xor_self,
    BitVec.xor_zero]

/-! ### The bit-serial form (R83) -/

theorem gfDouble_xor (a b : Byte) : gfDouble (a ^^^ b) = gfDouble a ^^^ gfDouble b := by
  have hcarry := ite_xor_add (a.getLsbD 7) (b.getLsbD 7) 0#8 0#8 0x1D#8
  simp only [BitVec.zero_xor] at hcarry
  rw [gfDouble, gfDouble, gfDouble, BitVec.getLsbD_xor, BitVec.shiftLeft_xor_distrib, hcarry]
  ac_rfl

theorem biadditive_gfMulSerial : Biadditive gfMulSerial where
  xor_left a b c := by
    refine List.foldl_hom₂ _ (· ^^^ ·) _ _ _ 0#8 0#8 fun x y i => ?_
    rw [gfDouble_xor]
    cases c.getLsbD i with
    | false => rfl
    | true => simp only [if_true]; ac_rfl
  xor_right a b c := by
    refine List.foldl_hom₂ _ (· ^^^ ·) _ _ _ 0#8 0#8 fun x y i => ?_
    rw [BitVec.getLsbD_xor, gfDouble_xor, ite_xor_add]

/-- Settles O13: both forms are additive in each operand and agree on single-bit operands. -/
theorem bitSerialProductAgrees : Obligations.BitSerialProductAgrees :=
  biadditive_gfMulSerial.eq_of_bits biadditive_gfMul (by decide)

end Sys2Proof
end

section
/-! PROOFS. ALPHA is primitive (R85), so every nonzero byte is a power of ALPHA; the inverses and the absence of
zero divisors (R84) follow. -/

namespace Sys2Proof

/-! ### Powers of ALPHA -/

@[simp] theorem gfMul_one_right (a : Byte) : gfMul a 1#8 = a := by
  rw [gfMul_comm, gfMul_one_left]

/-- A factor with an inverse is no zero divisor. -/
theorem eq_zero_of_gfMul_eq_zero {a a' b : Byte} (ha : gfMul a a' = 1#8) (h : gfMul a b = 0#8) :
    b = 0#8 :=
  calc
    b = gfMul (gfMul a' a) b := by rw [gfMul_comm a', ha, gfMul_one_left]
    _ = 0#8 := by rw [gfMul_assoc, h, gfMul_zero_right]

theorem alphaPow_ne_zero (i : Nat) : alphaPow i ≠ 0#8 := by
  induction i with
  | zero => decide
  | succ i ih =>
    have hinv : gfMul Config.alpha 0x8E#8 = 1#8 := by decide
    rw [alphaPow, gfMul_comm]
    exact fun h => ih (eq_zero_of_gfMul_eq_zero hinv h)

theorem alphaPow_add (i j : Nat) : alphaPow (i + j) = gfMul (alphaPow i) (alphaPow j) := by
  induction j with
  | zero => exact (gfMul_one_right _).symm
  | succ j ih => rw [← Nat.add_assoc, alphaPow, ih, gfMul_mul_alpha, ← alphaPow]

theorem alphaPow_eq_iterate (i : Nat) : alphaPow i = (gfMul · Config.alpha)^[i] 1#8 := by
  induction i with
  | zero => rfl
  | succ i ih => rw [alphaPow, ih, Function.iterate_succ_apply']

theorem isPeriodicPt_alpha_iff (i : Nat) :
    Function.IsPeriodicPt (gfMul · Config.alpha) i 1#8 ↔ alphaPow i = 1#8 := by
  rw [alphaPow_eq_iterate]
  rfl

/-- ALPHA at 255 and at 255/17, 255/5 and 255/3, by way of ALPHA^17. -/
theorem alphaPow_order_values : alphaPow 255 = 0x01#8 ∧
    alphaPow 15 = 0x26#8 ∧ alphaPow 51 = 0x0A#8 ∧ alphaPow 85 = 0xD6#8 := by
  have h17 : alphaPow 17 = 0x98#8 := by decide +kernel
  have h34 : alphaPow 34 = 0x4E#8 := (alphaPow_add 17 17).trans (by rw [h17]; decide)
  have h51 : alphaPow 51 = 0x0A#8 := (alphaPow_add 17 34).trans (by rw [h17, h34]; decide)
  have h85 : alphaPow 85 = 0xD6#8 := (alphaPow_add 34 51).trans (by rw [h34, h51]; decide)
  have h170 : alphaPow 170 = 0xD7#8 := (alphaPow_add 85 85).trans (by rw [h85]; decide)
  exact ⟨(alphaPow_add 85 170).trans (by rw [h85, h170]; decide), by decide +kernel, h51, h85⟩

/-- A proper divisor of `255 = 3·5·17` divides one of its three largest. -/
theorem divisor_255_cases : ∀ m ∈ Nat.divisors 255, m = 255 ∨ m ∣ 15 ∨ m ∣ 51 ∨ m ∣ 85 := by
  decide +kernel

/-- The order of ALPHA is 255, since no largest proper divisor of 255 is a period. -/
theorem minimalPeriod_alpha : Function.minimalPeriod (gfMul · Config.alpha) 1#8 = 255 := by
  obtain ⟨h255, h15, h51, h85⟩ := alphaPow_order_values
  have hdvd (i : Nat) : Function.minimalPeriod (gfMul · Config.alpha) 1#8 ∣ i ↔ alphaPow i = 1#8 :=
    Function.isPeriodicPt_iff_minimalPeriod_dvd.symm.trans (isPeriodicPt_alpha_iff i)
  have hmem := Nat.mem_divisors.mpr ⟨(hdvd 255).mpr h255, Nat.succ_ne_zero 254⟩
  refine (divisor_255_cases _ hmem).resolve_right ?_
  rw [hdvd, hdvd, hdvd, h15, h51, h85]
  decide

theorem alphaPow_255 : alphaPow 255 = 1#8 := alphaPow_order_values.1

/-- The powers 0 to 254 are distinct (R85). -/
theorem alphaPow_injOn : Set.InjOn alphaPow (Set.Iio 255) := by
  rw [← minimalPeriod_alpha, funext alphaPow_eq_iterate]
  exact Function.iterate_injOn_Iio_minimalPeriod

/-- Every nonzero byte is a power of ALPHA: there are 255 of each. -/
theorem exists_alphaPow_eq {a : Byte} (ha : a ≠ 0#8) : ∃ i < 255, alphaPow i = a := by
  have hmaps : Set.MapsTo alphaPow (Finset.range 255) ({0#8}ᶜ : Finset Byte) :=
    fun i _ => by simpa using alphaPow_ne_zero i
  have hcard : ({0#8}ᶜ : Finset Byte).card = 255 := by
    rw [Finset.card_compl, Finset.card_singleton, ← FinEnum.card_eq_fintypeCard, FinEnum.card_bitVec]
    rfl
  have hinj : Set.InjOn alphaPow (Finset.range 255) := by
    rw [Finset.coe_range]
    exact alphaPow_injOn
  have hsurj := Finset.surjOn_of_injOn_of_card_le alphaPow hmaps hinj (by simp [hcard])
  obtain ⟨i, hi, hia⟩ := hsurj (by simpa using ha)
  exact ⟨i, Finset.mem_range.mp hi, hia⟩

/-- Settles O15: 255 is the least period of multiplying by ALPHA. -/
theorem alphaIsPrimitive : Obligations.AlphaIsPrimitive :=
  ⟨rfl, fun _ => rfl, fun _ _ hi hj h => alphaPow_injOn hi hj h, alphaPow_ne_zero, alphaPow_255⟩

/-! ### The laws of the field product -/

/-- The inverse of `ALPHA^i` is `ALPHA^(255-i)`. -/
theorem exists_inverse {a : Byte} (ha : a ≠ 0#8) : ∃ a', gfMul a a' = 1#8 := by
  obtain ⟨i, hi, rfl⟩ := exists_alphaPow_eq ha
  exact ⟨alphaPow (255 - i), by rw [← alphaPow_add, Nat.add_sub_cancel' hi.le, alphaPow_255]⟩

theorem gfMul_eq_zero {a b : Byte} (h : gfMul a b = 0#8) : a = 0#8 ∨ b = 0#8 := by
  refine or_iff_not_imp_left.mpr fun ha => ?_
  obtain ⟨a', ha'⟩ := exists_inverse ha
  exact eq_zero_of_gfMul_eq_zero ha' h

/-- A nonzero factor can be cancelled. -/
theorem gfMul_left_cancel {a b c : Byte} (ha : a ≠ 0#8) (h : gfMul a b = gfMul a c) : b = c := by
  have hsum : gfMul a (b ^^^ c) = 0#8 := by rw [gfMul_xor_right, h, BitVec.xor_self]
  exact BitVec.xor_eq_zero_iff.mp ((gfMul_eq_zero hsum).resolve_left ha)

/-- Settles O14: a nonzero byte has an inverse, and cancelling the byte shows it is the only one. -/
theorem fieldProductLaws : Obligations.FieldProductLaws := by
  refine ⟨gfMul_comm, gfMul_assoc, gfMul_xor_right, gfMul_zero_right, gfMul_one_right,
    fun _ _ => gfMul_eq_zero, fun a ha => ?_⟩
  obtain ⟨a', ha'⟩ := exists_inverse ha
  exact ⟨a', ha', fun _ hb => gfMul_left_cancel ha (hb.trans ha'.symm)⟩

end Sys2Proof
end

section
/-! PROOFS. GFMUL (R86): its encoding, its one write, and the words that are not GFMUL. -/

namespace Sys2Proof.Machine

open Sys2Proof

/-- A word in GFMUL's row is decoded with bytes A and B (R62, R65). -/
theorem decode_of_gfmul_row {w : Word} (h : w &&& 0xFFFF0000#32 = 0x01000000#32) :
    decode w = .instr (.gfmul w.opA w.opB) := by
  obtain ⟨a, b, rfl⟩ := (and_maskAB_eq_iff 0x01#8).mp h
  rw [packWord_opA, packWord_opB]
  exact decode_encode (.gfmul a b)

/-- A nonzero RSV makes a word illegal before anything else is looked at (R63, R65). -/
theorem decode_of_rsv_ne_zero {w : Word} (h : w.rsv ≠ 0#8) : decode w = .illegal .reservedField :=
  if_pos h

/-- Settles O18: each clause is a decoding, an answer of `exec`, or a law of the field product. -/
theorem gfmulWritesTheProduct : Obligations.GfmulWritesTheProduct := by
  refine ⟨fun w => decode_of_gfmul_row, ?reserved, fun a b s hf => unlessFaulted_of_faulted hf _,
    fun a b s hf => unlessFaulted_of_unfaulted hf _,
    fun b => ⟨gfMul_zero_left b, gfMul_zero_right b, gfMul_one_left b⟩, gfMul_comm, by decide, ?worked⟩
  case reserved =>
    intro w s _ hrsv hf
    rw [perform_of_illegal (decode_of_rsv_ne_zero hrsv), hf]
    rfl
  case worked =>
    intro s hf
    have hproduct : gfMul 0x53#8 0xCA#8 = 0x8F#8 := by decide
    rw [← hproduct]
    exact perform_encode_of_effect (.gfmul 0x53#8 0xCA#8 s hf)

end Sys2Proof.Machine
end

section
/-! PROOFS. The generator polynomial (R100): it is monic of degree n, and its roots are exactly the powers it was
multiplied up from, since the field has no zero divisors. -/

namespace Sys2Proof

open Sys2Proof.Machine

/-- A product by a root factor vanishes where either factor does. -/
theorem eval_mul_root_eq_zero_iff (x root : Byte) {q : Poly} (hq : q ≠ []) :
    Poly.eval x (Poly.mul [root, 0x01#8] q) = 0#8 ↔ x = root ∨ Poly.eval x q = 0#8 := by
  rw [eval_mul_linear x root hq]
  constructor
  · intro h
    exact (gfMul_eq_zero h).imp_left fun hx => (BitVec.xor_eq_zero_iff.mp hx).symm
  · rintro (rfl | h)
    · rw [BitVec.xor_self, gfMul_zero_left]
    · rw [h, gfMul_zero_right]

/-- The generator's roots are exactly the powers below its degree (R100). -/
theorem eval_generatorPoly_eq_zero_iff (n : Nat) (x : Byte) :
    Poly.eval x (generatorPoly n) = 0#8 ↔ ∃ i, i < n ∧ x = alphaPow i := by
  induction n with
  | zero => simp [generatorPoly, Poly.eval, gfAdd]
  | succ n ih =>
    rw [generatorPoly, eval_mul_root_eq_zero_iff x _ (generatorPoly_ne_nil n), ih, or_comm,
      Nat.exists_lt_succ_right]

/-- Settles O16: the shape is that of GENPOLY's n cells under a leading 1, the roots are those of the factors. -/
theorem generatorHasExactlyItsRoots : Obligations.GeneratorHasExactlyItsRoots := by
  intro n hn _
  have hcells := ofHighFirst_generatorCells hn
  refine ⟨?length, ?leading, eval_generatorPoly_eq_zero_iff n⟩
  case length =>
    rw [← hcells, Poly.ofHighFirst, List.length_reverse, List.length_cons, generatorCells_length hn]
  case leading => rw [← hcells, Poly.ofHighFirst, List.getLast?_reverse, List.head?_cons]

end Sys2Proof
end

section
/-! PROOFS. GENPOLY and READGEN (R101, R103): their encodings, the words that are not theirs, their answers in
every state, and the two in a row. -/

namespace Sys2Proof.Machine

open Sys2Proof

/-! ### Words of the rows with operand B -/

/-- A word in the row of a command with the one operand B is decoded with byte B (R62, R65). -/
theorem decode_of_maskB_row {command : Byte → Instr} {opc : Byte}
    (hcommand : ∀ b, encode (command b) = packWord opc 0#8 b) {w : Word}
    (h : w &&& 0xFFFFFF00#32 = packWord opc 0#8 0#8) : decode w = .instr (command w.opB) := by
  obtain ⟨b, rfl⟩ := (and_maskB_eq_iff opc).mp h
  rw [packWord_opB, ← hcommand, decode_encode]

/-- Only GFMUL has an operand A, and no command has a nonzero RSV (R63). -/
theorem exists_illegal_of_field_ne_zero {w : Word} (hopc : w.opc ≠ 0x01#8)
    (h : w.opA ≠ 0#8 ∨ w.rsv ≠ 0#8) : ∃ why, decode w = .illegal why := by
  cases hd : decode w with
  | illegal why => exact ⟨why, rfl⟩
  | instr i =>
    obtain rfl := eq_encode_of_decode hd
    cases i with
    | gfmul a b => exact absurd (packWord_opc _ _ _) hopc
    | _ => simp [encode] at h

/-- Such a word raises ILLEGAL_CMD in an unfaulted state (R151). -/
theorem perform_of_field_ne_zero {w : Word} {s : State} (hopc : w.opc ≠ 0x01#8)
    (h : w.opA ≠ 0#8 ∨ w.rsv ≠ 0#8) (hf : s.fault = false) :
    perform w s = .next { s with fault := true, cause := 1#3 } := by
  obtain ⟨why, hwhy⟩ := exists_illegal_of_field_ne_zero hopc h
  rw [perform_of_illegal hwhy, hf]
  rfl

/-! ### The answers of GENPOLY and READGEN -/

/-- GENPOLY's operand check on the operand's value (R101, R153). -/
theorem degreeLegal_iff {n : Byte} {s : State} :
    degreeLegal n s = true ↔ 1 ≤ n.toNat ∧ n.toNat ≤ s.nmax.toNat := by
  refine ⟨degreeLegal_bounds, fun ⟨h1, hle⟩ => decide_eq_true ⟨?_, hle⟩⟩
  rintro rfl
  exact absurd h1 (by decide)

/-- GENPOLY n with a legal operand, then READGEN of a cell below it, answers the generator's cell (R101, R103). -/
theorem performAll_genpoly_readgen {n i : Byte} {s : State} (hf : s.fault = false)
    (hn : degreeLegal n s = true) (hi : i.toNat < n.toNat) :
    performAll [encode (.genpoly n), encode (.readgen i)] s =
      .next (setResult (cell (generatorCells n.toNat) i.toNat) (buildGenerator n s)) := by
  obtain ⟨h1, -⟩ := degreeLegal_bounds hn
  have hcell : cell (buildGenerator n s).g i.toNat = cell (generatorCells n.toNat) i.toNat :=
    cell_append_left (hi.trans_eq (generatorCells_length h1).symm)
  have hbuild := perform_encode_of_effect (.genpoly n s hf hn)
  have hread := perform_encode_of_effect (.readgen i (buildGenerator n s) hf hi)
  rw [hcell] at hread
  exact (Runs.cons hbuild (.cons hread (.nil _))).performAll_eq

/-! ### The statements of the two commands -/

/-- Settles O19: the cells are those of GENPOLY's loops, which are the generator's. -/
theorem genpolyBuildsTheGenerator : Obligations.GenpolyBuildsTheGenerator := by
  refine ⟨fun w => decode_of_maskB_row (opc := 0x02#8) fun _ => rfl,
    fun _ _ hopc => perform_of_field_ne_zero (ne_of_eq_of_ne hopc (by decide)),
    fun n s hf => unlessFaulted_of_faulted hf _, ?badDegree, ?builds⟩
  case badDegree =>
    intro n s hf hn
    have hl : degreeLegal n s = false := Bool.eq_false_iff.mpr fun hl => by
      have hbounds := degreeLegal_iff.mp hl
      omega
    exact exec_of_effect (.badDegree n s hf hl)
  case builds =>
    intro n s hf h1 hle
    refine ⟨generatorCells n.toNat, exec_of_effect (.genpoly n s hf (degreeLegal_iff.mpr ⟨h1, hle⟩)),
      generatorCells_length h1, ofHighFirst_generatorCells h1, fun hn => ?_, fun hn => ?_⟩
    · rw [hn]; rfl
    · rw [hn]; decide +kernel

/-- Settles O20: the checks of the read in their order, then the read; the worked example reads the last cell of
the degree-7 generator. -/
theorem readgenReadsOneCoefficient : Obligations.ReadgenReadsOneCoefficient := by
  refine ⟨fun w => decode_of_maskB_row (opc := 0x06#8) fun _ => rfl,
    fun _ _ hopc => perform_of_field_ne_zero (ne_of_eq_of_ne hopc (by decide)),
    fun i s hf => unlessFaulted_of_faulted hf _, ?noGenerator, ?badIndex,
    fun i s hf hi => exec_of_effect (.readgen i s hf hi), ?worked⟩
  case noGenerator =>
    intro i s hf hd
    exact exec_of_effect (.noGenerator (.readgen i) s hf rfl (BitVec.eq_of_toNat_eq hd))
  case badIndex =>
    intro i s hf hd hi
    have hne : s.deg ≠ 0#8 := fun h0 => hd (congrArg BitVec.toNat h0)
    exact exec_of_effect (.badCell i _ s hf (.inr rfl) hne hi)
  case worked =>
    have hrun := performAll_genpoly_readgen (n := 7#8) (i := 6#8) (s := State.reset) rfl
      (by decide) (by decide)
    refine ⟨_, hrun, ?_, by decide +kernel⟩
    rw [setResult_result]
    exact congrArg (cell · 6) Tests.test_generator_seven

end Sys2Proof.Machine
end

section
/-! PROOFS. The table of R104: its rows are the cells GENPOLY builds, and its exponents, split into sixteens so
that each power takes few products, name the same bytes. -/

namespace Sys2Proof

open Sys2Proof.Machine

theorem alphaPow_mul (m k : Nat) : alphaPow (m * k) = (gfMul · (alphaPow m))^[k] 1#8 := by
  induction k with
  | zero => rfl
  | succ k ih => rw [Nat.mul_succ, alphaPow_add, ih, Function.iterate_succ_apply']

/-- `ALPHA^i` as a power of `ALPHA^16` times a power below 16. -/
def alphaPowSixteens (i : Nat) : Byte :=
  gfMul ((gfMul · (alphaPow 16))^[i / 16] 1#8) (alphaPow (i % 16))

theorem alphaPowSixteens_eq (i : Nat) : alphaPowSixteens i = alphaPow i := by
  rw [alphaPowSixteens, ← alphaPow_mul, ← alphaPow_add, Nat.div_add_mod]

/-- Each row of the table is the generator of its length, and its exponents are those of the cells (R104). -/
theorem generatorTable_rows : ∀ row ∈ generatorTable,
    generatorCells row.1.length = row.1 ∧ row.2.map alphaPow = row.1 := by
  have hrows : ∀ row ∈ generatorTable,
      generatorCells row.1.length = row.1 ∧ row.2.map alphaPowSixteens = row.1 := by decide +kernel
  rwa [funext alphaPowSixteens_eq] at hrows

theorem generatorTable_lengths :
    generatorTable.map (fun row => row.1.length) = (List.range 30).map (· + 1) := by decide

theorem length_bounds_of_mem_generatorTable {row : List Byte × List Nat} (h : row ∈ generatorTable) :
    1 ≤ row.1.length ∧ row.1.length ≤ 30 := by
  have hmem : row.1.length ∈ generatorTable.map (fun row => row.1.length) := List.mem_map_of_mem h
  rw [generatorTable_lengths] at hmem
  obtain ⟨i, hi, hlen⟩ := List.mem_map.mp hmem
  have hlt := List.mem_range.mp hi
  omega

/-- Settles O17: GENPOLY then READGEN answers a cell of the generator, which is the row. -/
theorem readgenReproducesTheTable : Obligations.ReadgenReproducesTheTable := by
  refine ⟨generatorTable_lengths, fun row hrow => ?_⟩
  obtain ⟨hcells, hexponents⟩ := generatorTable_rows row hrow
  obtain ⟨h1, h30⟩ := length_bounds_of_mem_generatorTable hrow
  have hlen : row.2.length = row.1.length := by rw [← hexponents, List.length_map]
  refine ⟨hlen, fun j hj => ?_⟩
  have hn : (BitVec.ofNat 8 row.1.length).toNat = row.1.length := by
    rw [BitVec.toNat_ofNat, Nat.mod_eq_of_lt (by omega)]
  have hi : (BitVec.ofNat 8 j).toNat = j := by rw [BitVec.toNat_ofNat, Nat.mod_eq_of_lt (by omega)]
  have hrun := performAll_genpoly_readgen (s := State.reset) (n := BitVec.ofNat 8 row.1.length)
    (i := BitVec.ofNat 8 j) rfl (degreeLegal_iff.mpr (hn.symm ▸ ⟨h1, h30⟩)) (by rwa [hn, hi])
  rw [hn, hi, hcells] at hrun
  have hexponent : cell (row.2.map alphaPow) j = alphaPow (row.2.getD j 0) := by simp [cell, hlen, hj]
  rw [hexponents] at hexponent
  exact ⟨hexponent.symm, _, hrun, rfl, rfl⟩

end Sys2Proof
end

section
/-! PROOFS. The shift primitive, CLEAR, FEED and READREM (R120 to R124): the cells that one shift and one FEED
leave, and the answers of the three commands in every state. -/

namespace Sys2Proof.Machine

open Sys2Proof

theorem ne_zero_of_one_le_toNat {b : Byte} (h : 1 ≤ b.toNat) : b ≠ 0#8 := by
  rintro rfl
  exact absurd h (by decide)

/-! ### The cells after a shift and a FEED -/

/-- The cells after `shift_in` (R120). -/
theorem cell_shiftIn {n : Nat} {r : List Byte} (h1 : 1 ≤ n) (hr : n ≤ r.length) (j : Nat) :
    cell (shiftIn n r) j =
      if j + 1 < n then cell r (j + 1) else if j + 1 = n then 0x00#8 else cell r j := by
  have hlen : ((r.take n).drop 1).length = n - 1 := by simp [hr]
  unfold shiftIn
  split_ifs with hlt heq
  · rw [cell_append_left (by omega), cell_drop, cell_take (by omega), Nat.add_comm]
  · rw [cell_append_right (by omega), hlen, ← heq, Nat.add_sub_cancel, Nat.sub_self, cell_cons_zero]
  · have hback : j - (n - 1) = j - n + 1 := by omega
    rw [cell_append_right (by omega), hlen, hback, cell_cons_succ, cell_drop,
      Nat.add_sub_cancel' (by omega)]

/-- The last loop of FEED in an active cell (R122). -/
theorem cell_addScaled_of_lt {n j : Nat} {g r : List Byte} (hj : j < n) (hg : n ≤ g.length)
    (hr : n ≤ r.length) (factor : Byte) :
    cell (addScaled n factor g r) j = cell r j ^^^ gfMul (cell g j) factor := by
  have hjg : j < g.length := hj.trans_le hg
  have hjr : j < r.length := hj.trans_le hr
  rw [addScaled, cell_append_left (by simp; omega)]
  simp [cell, hj, hjg, hjr]

/-- With factor 0 that loop changes nothing (R122). -/
theorem addScaled_zero {n : Nat} {g : List Byte} (hg : n ≤ g.length) (r : List Byte) :
    addScaled n 0#8 g r = r := by
  have hfirst : List.zipWith (fun rj _ => rj) (r.take n) (g.take n) = r.take n :=
    List.map_zip_eq_zipWith.symm.trans (List.map_fst_zip (by simp; omega))
  simp only [addScaled, gfMul_zero_right, BitVec.xor_zero]
  rw [hfirst, List.take_append_drop]

/-- An active cell after FEED (R122). -/
theorem cell_feedCells_of_lt {n j : Nat} {g r : List Byte} (hj : j < n) (hg : n ≤ g.length)
    (hr : n ≤ r.length) (d : Byte) :
    cell (feedCells n d g r) j =
      (if j + 1 < n then cell r (j + 1) else 0x00#8) ^^^ gfMul (cell g j) (d ^^^ cell r 0) := by
  have h1 : 1 ≤ n := Nat.one_le_of_lt hj
  have hlen := shiftIn_length h1 hr
  have hlast : ¬ j + 1 < n → j + 1 = n := by omega
  rw [feedCells, cell_addScaled_of_lt hj hg (hlen.symm ▸ hr), cell_shiftIn h1 hr]
  split_ifs with hlt heq
  · rfl
  · rfl
  · exact absurd (hlast hlt) heq

/-- FEED of the byte in `R[0]` is a pure shift (R122). -/
theorem feedCells_cell_zero {n : Nat} {g : List Byte} (hg : n ≤ g.length) (r : List Byte) :
    feedCells n (cell r 0) g r = shiftIn n r := by
  rw [feedCells, BitVec.xor_self, addScaled_zero hg]

/-- FEED under the generator `x + 1` adds the byte to `R[0]` (R122). -/
theorem cell_feedCells_one {g r : List Byte} (hg : 1 ≤ g.length) (hr : 1 ≤ r.length)
    (hone : cell g 0 = 1#8) (d : Byte) : cell (feedCells 1 d g r) 0 = d ^^^ cell r 0 := by
  rw [cell_feedCells_of_lt Nat.one_pos hg hr, if_neg (by decide), hone, gfMul_one_left, BitVec.zero_xor]

/-! ### The words of CLEAR -/

/-- CLEAR's word has no nonzero field besides OPC (R63, R121). -/
theorem exists_illegal_of_clear_field_ne_zero {w : Word} (hopc : w.opc = 0x03#8)
    (h : w.opB ≠ 0#8 ∨ w.opA ≠ 0#8 ∨ w.rsv ≠ 0#8) : ∃ why, decode w = .illegal why := by
  cases hd : decode w with
  | illegal why => exact ⟨why, rfl⟩
  | instr i =>
    obtain rfl := eq_encode_of_decode hd
    cases i with
    | clear => simp [encode] at h
    | _ => simp [encode] at hopc

/-! ### The statements -/

/-- Settles O21. -/
theorem shiftInDropsFirstSetsLast : Obligations.ShiftInDropsFirstSetsLast :=
  fun _ _ h1 hr => ⟨shiftIn_length h1 hr, cell_shiftIn h1 hr⟩

/-- Settles O22: R is clear after a CLEAR and after a GENPOLY that built a generator, so a further CLEAR writes
what is there. -/
theorem clearEmptiesTheShiftRegister : Obligations.ClearEmptiesTheShiftRegister := by
  refine ⟨decode_encode .clear, ?illegal, fun s hf => unlessFaulted_of_faulted hf _,
    fun s hf => unlessFaulted_of_unfaulted hf _,
    fun s t h => exec_of_effect ((exec_cases h).idempotent nofun), ?genpoly⟩
  case illegal =>
    intro w s hopc hfields hf
    obtain ⟨why, hwhy⟩ := exists_illegal_of_clear_field_ne_zero hopc hfields
    rw [perform_of_illegal hwhy, hf]
    rfl
  case genpoly =>
    intro n s t h hf
    cases exec_cases h with
    | ignored _ _ hs => exact unlessFaulted_of_faulted hs _
    | genpoly => exact unlessFaulted_of_unfaulted hf _
    | noGenerator | badDegree | badCell => nomatch hf

/-- Settles O23: the new R is that of `feedCells`, read cell by cell. -/
theorem feedDividesOneStep : Obligations.FeedDividesOneStep := by
  refine ⟨fun w => decode_of_maskB_row (opc := 0x04#8) fun _ => rfl,
    fun _ _ hopc => perform_of_field_ne_zero (ne_of_eq_of_ne hopc (by decide)),
    fun d s hf => unlessFaulted_of_faulted hf _, ?noGenerator, ?feeds, ?worked⟩
  case noGenerator =>
    intro d s hf hd
    exact exec_of_effect (.noGenerator (.feed d) s hf rfl (BitVec.eq_of_toNat_eq hd))
  case feeds =>
    intro d s ⟨_, hg, hr⟩ hf h1 hle
    have hg : s.deg.toNat ≤ s.g.length := hg ▸ hle
    have hr : s.deg.toNat ≤ s.r.length := hr ▸ hle
    refine ⟨feedCells s.deg.toNat d s.g s.r, exec_of_effect (.feed d s hf (ne_zero_of_one_le_toNat h1)),
      feedCells_length h1 hg hr, fun j hj => cell_feedCells_of_le h1 hg hr hj d,
      fun j hj => cell_feedCells_of_lt hj hg hr d, ?_, fun hn hone => ?_⟩
    · rintro rfl
      exact feedCells_cell_zero hg s.r
    · rw [hn] at hg hr ⊢
      exact cell_feedCells_one hg hr hone d
  case worked =>
    have hbuild := perform_encode_of_effect (.genpoly 2#8 State.reset rfl (by decide))
    have hfeed := perform_encode_of_effect (.feed 0x12#8 (buildGenerator 2#8 State.reset) rfl (by decide))
    exact ⟨_, (Runs.cons hbuild (.cons hfeed (.nil _))).performAll_eq, by decide +kernel⟩

/-- Settles O24: the checks of the read in their order, then the read; the worked example reads the last cell
after three FEEDs. -/
theorem readremReadsOneCodeword : Obligations.ReadremReadsOneCodeword := by
  refine ⟨fun w => decode_of_maskB_row (opc := 0x05#8) fun _ => rfl,
    fun _ _ hopc => perform_of_field_ne_zero (ne_of_eq_of_ne hopc (by decide)),
    fun i s hf => unlessFaulted_of_faulted hf _, ?noGenerator, ?badIndex,
    fun i s hf hi => exec_of_effect (.readrem i s hf hi), ?worked⟩
  case noGenerator =>
    intro i s hf hd
    exact exec_of_effect (.noGenerator (.readrem i) s hf rfl (BitVec.eq_of_toNat_eq hd))
  case badIndex =>
    intro i s hf hd hi
    have hne := ne_zero_of_one_le_toNat (Nat.one_le_iff_ne_zero.mpr hd)
    exact exec_of_effect (.badCell i _ s hf (.inl rfl) hne hi)
  case worked =>
    have hbuild := perform_encode_of_effect (.genpoly 2#8 State.reset rfl (by decide))
    have hclear := perform_encode_of_effect (.clear (buildGenerator 2#8 State.reset) rfl)
    have hfeeds := runs_feedWords (s := buildGenerator 2#8 State.reset) rfl (by decide)
      [0x12#8, 0x34#8, 0x56#8]
    have hread {t : State} (hf : t.fault = false) (hi : 1 < t.deg.toNat) :=
      Runs.cons (perform_encode_of_effect (.readrem 1#8 t hf hi)) (.nil _)
    exact ⟨_, (Runs.cons hbuild (.cons hclear (hfeeds.append (hread rfl (by decide))))).performAll_eq,
      by decide +kernel⟩

end Sys2Proof.Machine
end

section
/-! PROOFS. What FEEDs from a clear register leave (R123, R125 a): the data and the register together are a
multiple of the generator, with one coefficient of the quotient per FEED, so the register is the remainder. -/

namespace Sys2Proof

open Sys2Proof.Machine

/-! ### Sums of polynomials -/

theorem poly_add_nil (p : Poly) : Poly.add p [] = p := by cases p <;> rfl

theorem poly_add_zeroCells {p : Poly} {m : Nat} (h : m ≤ p.length) : Poly.add p (zeroCells m) = p := by
  induction m generalizing p with
  | zero => exact poly_add_nil p
  | succ m ih =>
    cases p with
    | nil => exact absurd h (Nat.not_succ_le_zero m)
    | cons a p => exact congrArg₂ List.cons BitVec.xor_zero (ih (Nat.le_of_succ_le_succ h))

theorem poly_add_self (p : Poly) : Poly.add p p = zeroCells p.length := by
  induction p with
  | nil => rfl
  | cons a p ih => exact congrArg₂ List.cons BitVec.xor_self ih

/-! ### The quotient -/

/-- The first FEED: the byte and the new register are the byte times the generator (R123). -/
theorem mul_singleton_eq_feedCells {n : Nat} {g : List Byte} (h1 : 1 ≤ n) (hg : g.length = n) (d : Byte) :
    Poly.mul [d] (Poly.ofHighFirst (0x01#8 :: g)) =
      Poly.ofHighFirst ([d] ++ feedCells n d g (zeroCells n)) := by
  have hfeed := ofHighFirst_append_feedCells h1 hg (zeroCells_length n) [] d
  have hzero : 0#8 :: Poly.ofHighFirst ([] ++ zeroCells n) = zeroCells (n + 1) := by
    rw [List.nil_append, Poly.ofHighFirst, zeroCells, List.reverse_replicate]; rfl
  rw [hzero, cell_zeroCells, BitVec.xor_zero, poly_add_zeroCells (by simp [Poly.ofHighFirst, hg])] at hfeed
  exact (poly_add_zeroCells (m := 1) (by simp [Poly.ofHighFirst])).trans hfeed.symm

/-- Each further FEED adds one coefficient to the quotient (R123). -/
theorem exists_mul_eq_append_feedBlock {n : Nat} {g r : List Byte} (h1 : 1 ≤ n) (hg : g.length = n)
    (hr : r.length = n) {block : List Byte} {q : Poly}
    (hq : Poly.mul q (Poly.ofHighFirst (0x01#8 :: g)) = Poly.ofHighFirst (block ++ r))
    (data : List Byte) :
    ∃ p : Poly, p.length = q.length + data.length ∧
      Poly.mul p (Poly.ofHighFirst (0x01#8 :: g)) =
        Poly.ofHighFirst (block ++ data ++ feedBlock n g r data) := by
  induction data generalizing r block q with
  | nil => exact ⟨q, rfl, by rwa [List.append_nil, feedBlock]⟩
  | cons d ds ih =>
    have hlen := (feedCells_length (d := d) h1 hg.ge hr.ge).trans hr
    have hstep : Poly.mul ((d ^^^ cell r 0) :: q) (Poly.ofHighFirst (0x01#8 :: g)) =
        Poly.ofHighFirst (block ++ [d] ++ feedCells n d g r) := by
      rw [Poly.mul, hq, List.append_assoc, List.singleton_append,
        ofHighFirst_append_feedCells h1 hg hr]
    obtain ⟨p, hp, hmul⟩ := ih hlen hstep
    rw [List.append_assoc block, List.singleton_append] at hmul
    exact ⟨p, by simp only [hp, List.length_cons]; omega, hmul⟩

/-- From n clear cells, FEEDs of any data leave `D(x)·x^n mod g_n(x)` (R123). -/
theorem exists_quotient_feedBlock {n : Nat} {g : List Byte} (h1 : 1 ≤ n) (hg : g.length = n)
    (data : List Byte) :
    ∃ q : Poly, q.length = data.length ∧
      Poly.add (Poly.mul q (Poly.ofHighFirst (0x01#8 :: g)))
          (Poly.ofHighFirst (feedBlock n g (zeroCells n) data)) =
        Poly.shift n (Poly.ofHighFirst data) := by
  cases data with
  | nil => exact ⟨[], rfl, by simp [Poly.mul, Poly.add, Poly.shift, Poly.ofHighFirst, feedBlock, zeroCells]⟩
  | cons d ds =>
    have hzero := zeroCells_length n
    have hlen := (feedCells_length (d := d) h1 hg.ge hzero.ge).trans hzero
    obtain ⟨q, hq, hmul⟩ :=
      exists_mul_eq_append_feedBlock h1 hg hlen (mul_singleton_eq_feedCells h1 hg d) ds
    refine ⟨q, hq.trans (Nat.add_comm ..), ?_⟩
    have hregister : (feedBlock n g (zeroCells n) (d :: ds)).length = n :=
      (feedBlock_length h1 hg.ge hzero.ge _).trans hzero
    have hsum := poly_add_append (p := (feedBlock n g (zeroCells n) (d :: ds)).reverse) rfl
      (d :: ds).reverse []
    rw [poly_add_self, poly_add_nil, List.append_nil, ← List.reverse_append, List.length_reverse,
      hregister] at hsum
    rw [hmul]
    exact hsum

end Sys2Proof

namespace Sys2Proof.Machine

open Sys2Proof

/-! ### FEEDs from a clear register -/

/-- A register that is clear below DEG is clear, by the invariants (R37, R123). -/
theorem r_eq_zeroCells {s : State} (hs : s.Inv) (hclear : s.remainderClear) :
    s.r = zeroCells s.nmax.toNat := by
  obtain ⟨-, -, hr⟩ := hs.sized
  refine cells_ext (hr.trans (zeroCells_length _).symm) fun j => ?_
  rw [cell_zeroCells]
  rcases lt_or_ge j s.deg.toNat with hj | hj
  · exact hclear j hj
  · exact (hs.restZero j hj).1

section Clear
variable {s : State} (hs : s.Inv) (h1 : 1 ≤ s.deg.toNat)
include hs h1

/-- From a clear register the FEEDs complete and leave what they leave after a CLEAR (R123). -/
theorem performAll_feedWords_of_clear (hf : s.fault = false) (hclear : s.remainderClear)
    (data : List Byte) :
    performAll (feedWords data) s = .next { s with r := clearedFeed s data } := by
  rw [clearedFeed, ← r_eq_zeroCells hs hclear]
  exact (runs_feedWords hf (ne_zero_of_one_le_toNat h1) data).performAll_eq

theorem clearedFeed_take_length (data : List Byte) :
    ((clearedFeed s data).take s.deg.toNat).length = s.deg.toNat :=
  List.length_take_of_le (hs.degLe.trans_eq (clearedFeed_length hs h1 data).symm)

/-- The active cells of the block's register are computed from active cells (R122). -/
theorem take_clearedFeed (data : List Byte) :
    (clearedFeed s data).take s.deg.toNat =
      feedBlock s.deg.toNat (s.g.take s.deg.toNat) (zeroCells s.deg.toNat) data := by
  obtain ⟨-, hg, -⟩ := hs.sized
  rw [clearedFeed, take_feedBlock h1 (hs.degLe.trans_eq hg.symm)
    (hs.degLe.trans_eq (zeroCells_length _).symm), zeroCells, List.take_replicate,
    Nat.min_eq_left hs.degLe, zeroCells]

/-- The remainder of a block by the held generator (R123). -/
theorem exists_quotient_clearedFeed (data : List Byte) :
    ∃ q : Poly, q.length = data.length ∧
      Poly.add (Poly.mul q (generatorPoly s.deg.toNat))
          (Poly.ofHighFirst ((clearedFeed s data).take s.deg.toNat)) =
        Poly.shift s.deg.toNat (Poly.ofHighFirst data) := by
  obtain ⟨-, hg, -⟩ := hs.sized
  rw [← hs.generator h1, take_clearedFeed hs h1]
  exact exists_quotient_feedBlock h1 (List.length_take_of_le (hs.degLe.trans_eq hg.symm)) data

end Clear

/-! ### The statements -/

/-- Settles O27: the quotient of the block, whose register the FEEDs leave. -/
theorem feedsLeaveTheRemainder : Obligations.FeedsLeaveTheRemainder := by
  intro s data hs hf h1 hclear
  obtain ⟨q, hq, hdivision⟩ := exists_quotient_clearedFeed hs h1 data
  exact ⟨_, q, performAll_feedWords_of_clear hs h1 hf hclear data, rfl, hq,
    List.length_reverse.trans (clearedFeed_take_length hs h1 data), hdivision⟩

/-- Settles O28: the block's register is the one that completes an RSBLOCK to a codeword. -/
theorem fedBlockIsACodeword : Obligations.FedBlockIsACodeword := by
  intro s data hs hf h1 hclear
  exact ⟨_, performAll_feedWords_of_clear hs h1 hf hclear data, clearedFeed_take_length hs h1 data,
    fun i hi => eval_append_take_clearedFeed hs h1 data hi⟩

end Sys2Proof.Machine
end

section
/-! PROOFS. Properties of the remainder (R125 b to e): FEED is additive in the byte and the register together, and
a zero byte leaves a clear register clear. -/

namespace Sys2Proof.Machine

open Sys2Proof

/-! ### Linearity -/

theorem cell_zipWith_gfAdd {a b : List Byte} (h : a.length = b.length) (j : Nat) :
    cell (List.zipWith gfAdd a b) j = cell a j ^^^ cell b j := by
  rcases lt_or_ge j a.length with hj | hj
  · have hb : j < b.length := h ▸ hj
    simp [cell, hj, hb, gfAdd]
  · have hb : b.length ≤ j := h ▸ hj
    rw [cell_of_length_le hj, cell_of_length_le hb, cell_of_length_le (by simp [hj]), BitVec.xor_self]

section Sums
variable {n : Nat} {g : List Byte} (h1 : 1 ≤ n) (hg : n ≤ g.length)
include h1 hg

/-- FEED of a sum into a sum of registers (R122, R125 b). -/
theorem feedCells_zipWith_gfAdd {r r' : List Byte} (hr : n ≤ r.length) (hrr : r.length = r'.length)
    (d e : Byte) :
    feedCells n (gfAdd d e) g (List.zipWith gfAdd r r') =
      List.zipWith gfAdd (feedCells n d g r) (feedCells n e g r') := by
  have hr' : n ≤ r'.length := hrr ▸ hr
  have hlen : (List.zipWith gfAdd r r').length = r.length := by simp [hrr]
  have hsum : n ≤ (List.zipWith gfAdd r r').length := hlen.symm ▸ hr
  have hfed : (feedCells n d g r).length = (feedCells n e g r').length := by
    rw [feedCells_length h1 hg hr, feedCells_length h1 hg hr', hrr]
  refine cells_ext ?_ fun j => ?_
  · rw [feedCells_length h1 hg hsum, hlen, List.length_zipWith, ← hfed, Nat.min_self,
      feedCells_length h1 hg hr]
  rw [cell_zipWith_gfAdd hfed]
  rcases lt_or_ge j n with hj | hj
  · rw [cell_feedCells_of_lt hj hg hsum, cell_feedCells_of_lt hj hg hr, cell_feedCells_of_lt hj hg hr']
    simp only [cell_zipWith_gfAdd hrr, gfAdd, gfMul_xor_right]
    split_ifs
    · ac_rfl
    · simp only [BitVec.zero_xor]; ac_rfl
  · rw [cell_feedCells_of_le h1 hg hsum hj, cell_feedCells_of_le h1 hg hr hj,
      cell_feedCells_of_le h1 hg hr' hj, cell_zipWith_gfAdd hrr]

/-- FEEDs of the sum of two blocks (R125 b). -/
theorem feedBlock_zipWith_gfAdd {r r' xs ys : List Byte} (hr : n ≤ r.length)
    (hrr : r.length = r'.length) (hxy : xs.length = ys.length) :
    feedBlock n g (List.zipWith gfAdd r r') (List.zipWith gfAdd xs ys) =
      List.zipWith gfAdd (feedBlock n g r xs) (feedBlock n g r' ys) := by
  induction xs generalizing r r' ys with
  | nil =>
    obtain rfl := List.eq_nil_of_length_eq_zero hxy.symm
    rfl
  | cons x xs ih =>
    cases ys with
    | nil => nomatch hxy
    | cons y ys =>
      have hlen := feedCells_length (d := x) h1 hg hr
      have hlen' := feedCells_length (d := y) h1 hg (hrr ▸ hr)
      rw [List.zipWith_cons_cons, feedBlock, feedCells_zipWith_gfAdd h1 hg hr hrr,
        ih (hlen.symm ▸ hr) (by rw [hlen, hlen', hrr]) (Nat.succ.inj hxy), feedBlock, feedBlock]

/-! ### Zero bytes and single bytes -/

/-- FEED of 0x00 leaves a clear register clear (R125 c). -/
theorem feedCells_zero_zeroCells {m : Nat} (hm : n ≤ m) :
    feedCells n 0#8 g (zeroCells m) = zeroCells m := by
  have hlen : n ≤ (zeroCells m).length := hm.trans_eq (zeroCells_length m).symm
  have hshift := feedCells_cell_zero hg (zeroCells m)
  rw [cell_zeroCells] at hshift
  rw [hshift]
  refine cells_ext (shiftIn_length h1 hlen) fun j => ?_
  rw [cell_shiftIn h1 hlen]
  simp only [cell_zeroCells, ite_self]

/-- Leading zero bytes leave a clear register clear (R125 c). -/
theorem feedBlock_replicate_zero_append {m : Nat} (hm : n ≤ m) (k : Nat) (data : List Byte) :
    feedBlock n g (zeroCells m) (List.replicate k 0#8 ++ data) = feedBlock n g (zeroCells m) data := by
  induction k with
  | zero => rfl
  | succ k ih =>
    rw [List.replicate_succ, List.cons_append, feedBlock, feedCells_zero_zeroCells h1 hg hm, ih]

end Sums

/-- A byte fed to a clear register is multiplied into each active cell (R125 d). -/
theorem cell_feedCells_zeroCells {n m j : Nat} {g : List Byte} (hj : j < n) (hg : n ≤ g.length)
    (hm : n ≤ m) (d : Byte) : cell (feedCells n d g (zeroCells m)) j = gfMul (cell g j) d := by
  rw [cell_feedCells_of_lt hj hg (hm.trans_eq (zeroCells_length m).symm)]
  simp only [cell_zeroCells, ite_self, BitVec.zero_xor, BitVec.xor_zero]

/-! ### Degree 1 -/

/-- The generator of degree 1 is `x + 1` (R101). -/
theorem cell_g_of_deg_one {s : State} (hs : s.Inv) (h1 : s.deg.toNat = 1) : cell s.g 0 = 1#8 := by
  have hheld := hs.generator h1.ge
  have hpoly : generatorPoly 1 = [1#8, 1#8] := by decide
  rw [State.heldGenerator, h1, hpoly, Poly.ofHighFirst] at hheld
  have htake : s.g.take 1 = [1#8] := (List.cons.inj (List.reverse_eq_iff.mp hheld)).2
  rw [← cell_take Nat.one_pos, htake, cell_cons_zero]

/-- Under the generator `x + 1`, `R[0]` adds up the bytes fed (R125 e). -/
theorem cell_feedBlock_one {g r : List Byte} (hg : 1 ≤ g.length) (hr : 1 ≤ r.length)
    (hone : cell g 0 = 1#8) (data : List Byte) :
    cell (feedBlock 1 g r data) 0 = data.foldl gfAdd (cell r 0) := by
  induction data generalizing r with
  | nil => rfl
  | cons d ds ih =>
    have hlen := feedCells_length (d := d) le_rfl hg hr
    rw [feedBlock, ih (hlen.symm ▸ hr), cell_feedCells_one hg hr hone, List.foldl_cons, gfAdd,
      BitVec.xor_comm]

/-! ### The statements -/

/-- Settles O29: a clear register is its own sum, so FEEDs of the sum leave the sum of the registers. -/
theorem remainderIsLinear : Obligations.RemainderIsLinear := by
  intro s xs ys hs hf h1 hclear hxy
  have hrun := performAll_feedWords_of_clear hs h1 hf hclear
  refine ⟨_, _, _, hrun xs, hrun ys, hrun _, ?_⟩
  obtain ⟨-, hg, -⟩ := hs.sized
  have hzero : List.zipWith gfAdd (zeroCells s.nmax.toNat) (zeroCells s.nmax.toNat) =
      zeroCells s.nmax.toNat := by
    rw [zeroCells, List.zipWith_replicate, Nat.min_self]; rfl
  have hsum := feedBlock_zipWith_gfAdd h1 (hs.degLe.trans_eq hg.symm)
    (hs.degLe.trans_eq (zeroCells_length _).symm) rfl hxy
  rw [hzero] at hsum
  simp only [State.codewords, clearedFeed, hsum, List.take_zipWith]

/-- Settles O30: each case is one of the register a block leaves. -/
theorem remainderSpecialCases : Obligations.RemainderSpecialCases := by
  intro s hs hf h1 hclear
  have hrun := performAll_feedWords_of_clear hs h1 hf hclear
  obtain ⟨-, hg, -⟩ := hs.sized
  have hg : s.deg.toNat ≤ s.g.length := hs.degLe.trans_eq hg.symm
  refine ⟨fun k data => ⟨_, ?leadingZeros, hrun data⟩,
    fun d => ⟨_, hrun [d], fun j hj => cell_feedCells_zeroCells hj hg hs.degLe d⟩,
    fun hn data => ⟨_, hrun data, ?degreeOne⟩⟩
  case leadingZeros =>
    rw [hrun, clearedFeed, feedBlock_replicate_zero_append h1 hg hs.degLe, ← clearedFeed]
  case degreeOne =>
    have hle := hs.degLe
    rw [hn] at hg hle
    rw [clearedFeed, hn, cell_feedBlock_one hg (hle.trans_eq (zeroCells_length _).symm)
      (cell_g_of_deg_one hs hn), cell_zeroCells]

end Sys2Proof.Machine
end

section
/-! PROOFS. READSTAT (R140), and what STATUS tells about a sequence of words (R141): the fault state keeps every
register but RESULT, so the word that faulted first is the one whose cause and registers are still held. -/

namespace Sys2Proof.Machine

open Sys2Proof

/-! ### The fault state and the word that enters it -/

/-- The fault state keeps every register but RESULT, which READSTAT may write (R162). -/
theorem Effect.frame_of_faulted {i : Instr} {s t : State} (h : Effect i s t) (hf : s.fault = true) :
    t = { s with result := t.result } := by
  cases h with
  | ignored | readstat => rfl
  | noGenerator _ _ hs | badDegree _ _ hs | badCell _ _ _ hs | badSelector _ _ hs | gfmul _ _ _ hs
  | genpoly _ _ hs | clear _ hs | feed _ _ hs | readrem _ _ hs | readgen _ _ hs =>
    exact absurd hf (ne_true_of_eq_false hs)

/-- So does any word, since the fault state ignores an illegal one. -/
theorem perform_frame_of_faulted {w : Word} {s t : State} (h : perform w s = .next t)
    (hf : s.fault = true) : t = { s with result := t.result } := by
  rcases perform_cases h with ⟨_, -, he⟩ | ⟨_, -, ⟨-, rfl⟩ | ⟨hs, -⟩⟩
  · exact he.frame_of_faulted hf
  · rfl
  · exact absurd hf (ne_true_of_eq_false hs)

/-- A word that leaves an unfaulted state faulted has written FAULT and CAUSE alone (R160). -/
theorem perform_frame_of_fault {w : Word} {s t : State} (h : perform w s = .next t)
    (hs : s.fault = false) (ht : t.fault = true) :
    t = { s with fault := true, cause := t.cause } := by
  rcases perform_cases h with ⟨_, -, he⟩ | ⟨_, -, ⟨hf, -⟩ | ⟨-, rfl⟩⟩
  · rcases he.fault_cause with ⟨hkept, -⟩ | ⟨-, hframe⟩
    · exact absurd (hkept.symm.trans ht) (ne_true_of_eq_false hs)
    · exact hframe
  · exact absurd hf (ne_true_of_eq_false hs)
  · rfl

/-! ### Sequences of words -/

/-- A sequence passes through the state its first part leaves (R47). -/
theorem performAll_append_cases {ws ws' : List Word} {s t : State}
    (h : performAll (ws ++ ws') s = .next t) :
    ∃ u, performAll ws s = .next u ∧ performAll ws' u = .next t := by
  induction ws generalizing s with
  | nil => exact ⟨s, rfl, h⟩
  | cons w ws ih =>
    obtain ⟨v, hv, hrest⟩ := performAll_cons_cases h
    obtain ⟨u, hu, ht⟩ := ih hrest
    exact ⟨u, by simpa only [performAll, hv] using hu, ht⟩

theorem performAll_frame_of_faulted {ws : List Word} {s t : State} (h : performAll ws s = .next t)
    (hf : s.fault = true) : t = { s with result := t.result } := by
  induction ws generalizing s with
  | nil => injection h with h; rw [h]
  | cons w ws ih =>
    obtain ⟨u, hu, ht⟩ := performAll_cons_cases h
    have hframe := perform_frame_of_faulted hu hf
    have hkept := ih ht (by rw [hframe]; exact hf)
    rw [hframe] at hkept
    exact hkept

/-- FAULT = 0 after a sequence means FAULT = 0 after its first part: no word clears FAULT (R165). -/
theorem exists_unfaulted_prefix {pre post : List Word} {s t : State}
    (h : performAll (pre ++ post) s = .next t) (ht : t.fault = false) :
    ∃ u, performAll pre s = .next u ∧ u.fault = false := by
  obtain ⟨u, hu, hpost⟩ := performAll_append_cases h
  refine ⟨u, hu, Bool.eq_false_iff.mpr fun hf => ?_⟩
  rw [performAll_frame_of_faulted hpost hf] at ht
  exact ne_true_of_eq_false ht hf

/-- FAULT = 1 after a sequence from an unfaulted state: one word faulted first, and what follows it keeps the
registers it left (R141). -/
theorem exists_first_fault {ws : List Word} {s t : State} (hs : s.fault = false)
    (h : performAll ws s = .next t) (ht : t.fault = true) :
    ∃ pre w post u, ws = pre ++ w :: post ∧ performAll pre s = .next u ∧ u.fault = false ∧
      perform w u = .next { u with fault := true, cause := t.cause } ∧
      t = { u with fault := true, cause := t.cause, result := t.result } := by
  induction ws generalizing s with
  | nil =>
    injection h with h
    exact absurd ht (ne_true_of_eq_false (h ▸ hs))
  | cons w ws ih =>
    obtain ⟨v, hv, hrest⟩ := performAll_cons_cases h
    cases hf : v.fault with
    | true =>
      have hkept := performAll_frame_of_faulted hrest hf
      have hcause : t.cause = v.cause := by rw [hkept]
      have hentry := perform_frame_of_fault hv hs hf
      refine ⟨[], w, ws, s, rfl, rfl, hs, ?_, ?_⟩
      · rw [hcause, ← hentry, hv]
      · rw [hcause, hkept, hentry]
    | false =>
      obtain ⟨pre, w', post, u, rfl, hpre, hfirst⟩ := ih hf hrest
      exact ⟨w :: pre, w', post, u, rfl, by simpa only [performAll, hv] using hpre, hfirst⟩

/-! ### The statements -/

/-- Settles O25: the selectors above 2 are the only ones that look at FAULT. -/
theorem readstatReadsStatusDegreeCapacity : Obligations.ReadstatReadsStatusDegreeCapacity := by
  refine ⟨fun w => decode_of_maskB_row (opc := 0x07#8) fun _ => rfl, ?illegal,
    fun s => ⟨rfl, rfl, rfl⟩, fun sel s hsel hf => exec_of_effect (.badSelector sel s hf hsel),
    ?ignored, by decide +kernel⟩
  case illegal =>
    intro w s hopc hfields
    have hopc : w.opc ≠ 0x01#8 := ne_of_eq_of_ne hopc (by decide)
    obtain ⟨why, hwhy⟩ := exists_illegal_of_field_ne_zero hopc hfields
    rw [perform_of_illegal hwhy]
    cases hf : s.fault with
    | true => rw [if_pos rfl, if_pos rfl, ← hf]
    | false => rfl
  case ignored =>
    intro sel s hsel hf
    exact exec_of_faulted hf fun sel' =>
      (ne_or_eq (Instr.readstat sel) (.readstat sel')).imp_right fun h =>
        (Instr.readstat.inj h : sel = sel') ▸ hsel

/-- Settles O36: no word clears FAULT, and after the first fault only RESULT can change. -/
theorem statusNamesTheFirstFault : Obligations.StatusNamesTheFirstFault := by
  intro ws s t hs h
  refine ⟨?unfaulted, ?faulted, ?status⟩
  case unfaulted =>
    rintro ht pre post rfl
    exact exists_unfaulted_prefix h ht
  case faulted =>
    intro ht
    obtain ⟨pre, w, post, u, hsplit, hpre, hu, hfirst, hkept⟩ := exists_first_fault hs h ht
    exact ⟨pre, w, post, u, hsplit, hpre, hu, hfirst, by rw [hkept], by rw [hkept], by rw [hkept]⟩
  case status =>
    obtain ⟨hfault, -, hcause, -⟩ := statusHasItsLayout t
    exact ⟨_, perform_encode_of_effect (.readstat 0#8 t (by decide)), hfault, hcause⟩

end Sys2Proof.Machine
end

section
/-! PROOFS. Faults and the fault state (R150 to R169): the words that are no command, the one way a word enters the
fault state, what the fault state performs, and the steps of a block to which no word is offered. -/

namespace Sys2Proof.Machine

open Sys2Proof

/-! ### Illegal words -/

/-- A word is illegal or a command, and not both (R65). -/
theorem exists_illegal_iff_not_exists_instr (w : Word) :
    (∃ why, decode w = .illegal why) ↔ ¬ ∃ i, decode w = .instr i := by
  cases decode w <;> simp

/-- The fields of a command's word (R62, R63). -/
theorem encode_fields (i : Instr) :
    (encode i).opc ≠ 0x00#8 ∧ (encode i).opc < 0x08#8 ∧ (encode i).rsv = 0#8 ∧
      ((encode i).opc ≠ 0x01#8 → (encode i).opA = 0#8) ∧
      ((encode i).opc = 0x03#8 → (encode i).opB = 0#8) := by
  cases i <;> simp [encode]

/-- A word with such fields is a command's, row by row (R62, R63). -/
theorem exists_eq_encode_of_fields {w : Word} (hzero : w.opc ≠ 0x00#8) (hopc : w.opc < 0x08#8)
    (hrsv : w.rsv = 0#8) (hA : w.opc ≠ 0x01#8 → w.opA = 0#8) (hB : w.opc = 0x03#8 → w.opB = 0#8) :
    ∃ i, w = encode i := by
  have hrow : w.opc = 0x01#8 ∨ w.opc = 0x02#8 ∨ w.opc = 0x03#8 ∨ w.opc = 0x04#8 ∨ w.opc = 0x05#8 ∨
      w.opc = 0x06#8 ∨ w.opc = 0x07#8 := by bv_omega
  have hpacked {opc : Byte} (h : w.opc = opc) (hne : opc ≠ 0x01#8) : w = packWord opc 0#8 w.opB :=
    eq_packWord_iff.mpr ⟨h, hrsv, hA (ne_of_eq_of_ne h hne), rfl⟩
  rcases hrow with h | h | h | h | h | h | h
  · exact ⟨.gfmul w.opA w.opB, eq_packWord_iff.mpr ⟨h, hrsv, rfl, rfl⟩⟩
  · exact ⟨.genpoly w.opB, hpacked h (by decide)⟩
  · exact ⟨.clear, (hpacked h (by decide)).trans (congrArg (packWord 0x03#8 0#8) (hB h))⟩
  · exact ⟨.feed w.opB, hpacked h (by decide)⟩
  · exact ⟨.readrem w.opB, hpacked h (by decide)⟩
  · exact ⟨.readgen w.opB, hpacked h (by decide)⟩
  · exact ⟨.readstat w.opB, hpacked h (by decide)⟩

/-- The fields decide whether a word is a command. -/
theorem exists_instr_iff_fields (w : Word) : (∃ i, decode w = .instr i) ↔
    w.opc ≠ 0x00#8 ∧ w.opc < 0x08#8 ∧ w.rsv = 0#8 ∧ (w.opc ≠ 0x01#8 → w.opA = 0#8) ∧
      (w.opc = 0x03#8 → w.opB = 0#8) := by
  simp only [decode_eq_instr_iff]
  constructor
  · rintro ⟨i, rfl⟩
    exact encode_fields i
  · rintro ⟨hzero, hopc, hrsv, hA, hB⟩
    exact exists_eq_encode_of_fields hzero hopc hrsv hA hB

/-- ILLEGAL_CMD is raised outside the fault state (R151). -/
theorem perform_illegal_of_unfaulted {w : Word} {s : State} (h : ∃ why, decode w = .illegal why)
    (hf : s.fault = false) : perform w s = .next (takeFault .illegalCmd s) := by
  obtain ⟨why, hwhy⟩ := h
  rw [perform_of_illegal hwhy, hf]
  rfl

/-- The fault state ignores an illegal word (R162). -/
theorem perform_illegal_of_faulted {w : Word} {why : Illegal} {s : State}
    (h : decode w = .illegal why) (hf : s.fault = true) : perform w s = .next s := by
  rw [perform_of_illegal h, if_pos hf, ← hf]

/-- Settles O9: the illegal words are the complement of the commands, whose fields are known. -/
theorem illegalWordsRaiseIllegalCmd : Obligations.IllegalWordsRaiseIllegalCmd := by
  refine fun w => ⟨?fields, fun s hf hw => perform_illegal_of_unfaulted hw hf⟩
  rw [exists_illegal_iff_not_exists_instr, exists_instr_iff_fields]
  simp only [not_and_or, not_not, BitVec.not_lt, Classical.not_imp]
  rfl

/-! ### Fault entry -/

/-- A command that enters the fault state has done nothing else (R160). -/
theorem Effect.eq_takeFault {i : Instr} {s t : State} (h : Effect i s t) (hs : s.fault = false)
    (ht : t.fault = true) : ∃ c, t = takeFault c s := by
  cases h with
  | noGenerator | badDegree | badCell | badSelector => exact ⟨_, rfl⟩
  | _ => exact absurd (hs.symm.trans ht) nofun

/-- Nor has any other word. -/
theorem perform_eq_takeFault {w : Word} {s t : State} (h : perform w s = .next t)
    (hs : s.fault = false) (ht : t.fault = true) : ∃ c, t = takeFault c s := by
  rcases perform_cases h with ⟨_, -, he⟩ | ⟨_, -, ⟨hf, -⟩ | ⟨-, rfl⟩⟩
  · exact he.eq_takeFault hs ht
  · exact absurd hf (ne_true_of_eq_false hs)
  · exact ⟨_, rfl⟩

/-- Settles O32: the new state is `takeFault` of the old one, and the handshake completes it. -/
theorem faultEntryIsPrecise : Obligations.FaultEntryIsPrecise := by
  intro w s t hs h ht
  obtain ⟨c, rfl⟩ := perform_eq_takeFault h hs ht
  obtain ⟨hlow, hhigh⟩ := c.code_bounds
  exact ⟨rfl, hlow, hhigh, _, finish_of_perform h, rfl, rfl⟩

/-! ### The table of causes -/

theorem perform_of_effect {w : Word} {i : Instr} {s t : State} (hw : decode w = .instr i)
    (h : Effect i s t) : perform w s = .next t :=
  (perform_of_instr hw s).trans (exec_of_effect h)

/-- A command keeps FAULT and CAUSE when it has the generator it needs and its operand is in range (R152 to
R154). -/
theorem Effect.fault_cause_of_legal {i : Instr} {s t : State} (h : Effect i s t)
    (hgen : needsGenerator i = true → s.deg.toNat ≠ 0)
    (hdegree : ∀ n, i = .genpoly n → 1 ≤ n.toNat ∧ n.toNat ≤ s.nmax.toNat)
    (hindex : ∀ j, i = .readrem j ∨ i = .readgen j → j.toNat < s.deg.toNat)
    (hselector : ∀ sel, i = .readstat sel → sel.toNat ≤ 2) :
    t.fault = s.fault ∧ t.cause = s.cause := by
  cases h with
  | noGenerator _ _ _ hneeds hd => exact absurd (congrArg BitVec.toNat hd) (hgen hneeds)
  | badDegree n _ _ hl =>
    exact absurd (degreeLegal_iff.mpr (hdegree n rfl)) (ne_true_of_eq_false hl)
  | badCell j _ _ _ hread _ hj => exact absurd (hindex j hread) hj.not_gt
  | badSelector sel _ _ hsel => exact absurd (hselector sel rfl) hsel.not_ge
  | _ => exact ⟨rfl, rfl⟩

/-- Settles O33: each faulting row of the table is a faulting effect, and the last clause excludes them all. -/
theorem faultCausesFollowTheTable : Obligations.FaultCausesFollowTheTable := by
  intro w s hf
  refine ⟨fun hw => perform_illegal_of_unfaulted hw hf, ?noGenerator, ?badDegree, ?badCell,
    fun sel hw hsel => perform_of_effect hw (.badSelector sel s hf hsel), ?noFault⟩
  case noGenerator =>
    intro i hw hneeds hd
    exact perform_of_effect hw (.noGenerator i s hf hneeds (BitVec.eq_of_toNat_eq hd))
  case badDegree =>
    intro n hw hn
    have hl : degreeLegal n s = false := Bool.eq_false_iff.mpr fun hl => by
      have hbounds := degreeLegal_bounds hl
      omega
    exact perform_of_effect hw (.badDegree n s hf hl)
  case badCell =>
    intro i hw hd hi
    have hne : s.deg ≠ 0#8 := ne_zero_of_one_le_toNat (Nat.one_le_iff_ne_zero.mpr hd)
    rcases hw with hw | hw
    · exact perform_of_effect hw (.badCell i _ s hf (.inl rfl) hne hi)
    · exact perform_of_effect hw (.badCell i _ s hf (.inr rfl) hne hi)
  case noFault =>
    rintro ⟨i, hw, hgen, hdegree, hindex, hselector⟩
    obtain ⟨t, ht⟩ := exec_exists_next i s
    obtain ⟨hfault, hcause⟩ :=
      (exec_cases ht).fault_cause_of_legal hgen hdegree hindex hselector
    exact ⟨t, (perform_of_instr hw s).trans ht, hfault.trans hf, hcause⟩

/-! ### The fault state -/

/-- No word leaves the fault state or changes its cause (R162, R165). -/
theorem perform_fault_cause_of_faulted {w : Word} {s t : State} (h : perform w s = .next t)
    (hf : s.fault = true) : t.fault = true ∧ t.cause = s.cause := by
  rw [perform_frame_of_faulted h hf]
  exact ⟨hf, rfl⟩

/-- Settles O34: the answers of `perform` in the fault state, and the handshake after any of them. -/
theorem faultStatePerformsOnlyReadstat : Obligations.FaultStatePerformsOnlyReadstat := by
  intro s hf
  refine ⟨fun sel hsel => perform_encode_of_effect (.readstat sel s hsel), ?ignored, ?completes⟩
  case ignored =>
    intro w hw
    cases hd : decode w with
    | illegal why => exact perform_illegal_of_faulted hd hf
    | instr i =>
      have hi : ∀ sel, i ≠ .readstat sel ∨ 2 < sel.toNat := fun sel =>
        (ne_or_eq i (.readstat sel)).imp_right fun h => hw sel (hd.trans (congrArg _ h))
      exact (perform_of_instr hd s).trans (exec_of_faulted hf hi)
  case completes =>
    intro w
    obtain ⟨t, ht⟩ := perform_exists_next w s
    have hkept := perform_fault_cause_of_faulted ht hf
    exact ⟨completed t, finish_of_perform ht, rfl, rfl, hkept⟩

/-- Settles O35: of the four kinds of step only the reset writes FAULT or CAUSE in the fault state. -/
theorem onlyResetLeavesTheFaultState : Obligations.OnlyResetLeavesTheFaultState := by
  intro s t hf h
  rcases step_cases h with ⟨w, left, u, -, hu, rfl⟩ | ⟨-, -, rfl⟩ | ⟨rest, hp, hh, rfl⟩ |
    ⟨w, rest, u, -, -, hu, rfl⟩
  case inl =>
    have hkept := perform_fault_cause_of_faulted hu hf
    exact .inl hkept
  case inr.inl => exact .inl ⟨hf, rfl⟩
  case inr.inr.inl => exact .inr ⟨hp, rest, hh, rfl⟩
  case inr.inr.inr =>
    have hkept := perform_fault_cause_of_faulted hu hf
    exact .inl hkept

/-! ### Steps without a word -/

/-- An idle host lets an edge pass (R169). -/
theorem step_of_no_action {s : State} (hp : s.phase = .idle) (hh : s.host = []) :
    step s = .next (quietEdge s) := by
  simp only [step_of_idle hp, hostAction, hh]

/-- A host reset at an idle block is a reset edge (R180). -/
theorem step_of_reset {s : State} {rest : List HostAction} (hp : s.phase = .idle)
    (hh : s.host = .reset :: rest) : step s = .next (resetEdge { s with host := rest }) := by
  simp only [step_of_idle hp, hostAction, hh]

/-- Settles O41. -/
theorem idleBlockHoldsItsState : Obligations.IdleBlockHoldsItsState :=
  ⟨fun _ => step_of_no_action, fun _ _ => step_of_reset⟩

end Sys2Proof.Machine
end

section
/-! PROOFS. Reset and the clock edge's hazards (R180 to R191): the equations of the edges that complete no command,
and the registers that GENPOLY starts afresh. -/

namespace Sys2Proof.Machine

open Sys2Proof

/-! ### Edges that complete no command -/

/-- Reset has priority over whatever is in flight (R180). -/
theorem clockEdge_of_reset {p : Pins} (hp : p.rstN = false) (lat : Latencies) (s : State) :
    clockEdge lat p s = .next (resetEdge s) := if_neg (ne_true_of_eq_false hp)

/-- An idle block whose `cmd_ready` is 0 accepts nothing (R38, R181). -/
theorem clockEdge_of_not_ready {p : Pins} {s : State} (hp : p.rstN = true) (hidle : s.phase = .idle)
    (hready : cmdReady s = false) (lat : Latencies) : clockEdge lat p s = .next (quietEdge s) := by
  simp [clockEdge, hp, hidle, hready]

/-- A busy block with more than one edge left counts it down (R38, R190). -/
theorem clockEdge_of_busy {p : Pins} {s : State} {w : Word} {left : Nat} (hp : p.rstN = true)
    (hbusy : s.phase = .busy w left) (hleft : 2 ≤ left) (lat : Latencies) :
    clockEdge lat p s = .next { quietEdge s with phase := .busy w (left - 1) } := by
  have hcount : ¬ left ≤ 1 := by omega
  simp only [clockEdge, hp, hbusy, if_true, if_neg hcount]

/-- Settles O2: the first edge is a reset edge, and the next one finds the block idle but not ready. -/
theorem resetEdgeResetsAnyState : Obligations.ResetEdgeResetsAnyState := by
  intro lat p q s hp hq
  exact ⟨resetEdge s, quietEdge (resetEdge s), clockEdge_of_reset hp lat s,
    clockEdge_of_not_ready hq rfl rfl lat, rfl, rfl, rfl, rfl, rfl, rfl, rfl, rfl, rfl, rfl⟩

/-- Settles O44: the edge counts down, and a busy block's ports show the registers as they stand. -/
theorem busyEdgesHideTheCommand : Obligations.BusyEdgesHideTheCommand :=
  fun lat _ _ _ _ hp hbusy hleft => ⟨clockEdge_of_busy hp hbusy hleft lat, rfl⟩

/-! ### What a symbol leaves to the next -/

@[simp] theorem relabel_result (p : Phase) (r d : Bool) (h : List HostAction) (s : State) :
    (relabel p r d h s).result = s.result := rfl

/-- The host's observation does not depend on the handshake or on its own pending actions (R10). -/
theorem observe_relabel (ws : List Word) (p : Phase) (r d : Bool) (h : List HostAction) (s : State) :
    observe ws (relabel p r d h s) = observe ws s := by
  induction ws generalizing s with
  | nil => rfl
  | cons w ws ih =>
    obtain ⟨u, hu⟩ := perform_exists_next w s
    simp only [observe, perform_relabel, hu, mapNext_next, ih, relabel_result]

/-- GENPOLY overwrites DEG, G and R, so its result is fixed by the other registers (R101, R186). -/
theorem buildGenerator_eq_relabel {s t : State} (hnmax : s.nmax = t.nmax) (hresult : s.result = t.result)
    (hfault : s.fault = t.fault) (hcause : s.cause = t.cause) (n : Byte) :
    buildGenerator n t = relabel t.phase t.rstN t.done t.host (buildGenerator n s) := by
  simp only [buildGenerator, relabel, hnmax, hresult, hfault, hcause]

/-- Settles O47: after GENPOLY the two blocks differ at most in the handshake and the host's actions, which no
observation shows. -/
theorem nothingLeaksBetweenSymbols : Obligations.NothingLeaksBetweenSymbols := by
  intro n ws s t h1 hle hnmax hresult hs ht hcause
  have hbuilds := perform_encode_of_effect (.genpoly n s hs (degreeLegal_iff.mpr ⟨h1, hle⟩))
  have hbuildt := perform_encode_of_effect (.genpoly n t ht (degreeLegal_iff.mpr ⟨h1, hnmax ▸ hle⟩))
  have hsame := buildGenerator_eq_relabel hnmax hresult (hs.trans ht.symm) hcause n
  simp only [observe, hbuilds, hbuildt, buildGenerator_result, hresult]
  rw [hsame, observe_relabel]

end Sys2Proof.Machine
end
